-- ==== Sys2Proof/Word.lean ====
section
/-! DEFINITION. The word types of the core, at the widths of rules R6, R7 and R20. -/

namespace Sys2Proof

/-- 64 bits: a lane (R21), a command word (R70), response data (R85), the status word (R40). -/
abbrev Word := BitVec 64

/-- 8 bits: a byte of the state byte view (R50), a data byte (R75), a session scalar (R24 to R27). -/
abbrev Byte := BitVec 8

/-- 32 bits: a character code, compared as a whole and never interpreted (R34, R163). -/
abbrev CharCode := BitVec 32

/-- The permutation state `lane[0..24]` (R21). -/
abbrev Lanes := Vector Word 25

/-- The alphabet table `alpha[0..254]` (R34). -/
abbrev Alphabet := Vector CharCode 255

end Sys2Proof
end

