-- ==== Sys2Proof/Config.lean ====
section
/-! DEFINITION. What an implementation of the core fixes: the build parameter TEST_PORT (R8) and the
parameters of rules R6 and R7. The other open parameter of R8, LATENCY, is time, which no rule depends
on (R254), and the model holds no time. -/

namespace Sys2Proof

/-- The build parameters a core is made with (R8). No command and no reset changes them (R42). -/
structure Build where
  /-- TEST_PORT: the opcodes KECCAK_F and LANE_READ are legal exactly when it is true (R77). -/
  testPort : Bool
  deriving DecidableEq, Repr

namespace Config

/-- The build with R8's default: TEST_PORT is true. -/
def defaultBuild : Build := { testPort := true }

/-- STATE_BYTES (R6): the state byte view has addresses 0 to 199 (R50). -/
abbrev stateBytes : Nat := 200

/-- ALPHA_MAX (R6): the alphabet has at most 255 symbols (R35). -/
abbrev alphaMax : Nat := 255

/-- The shipped rate in bits (R6). -/
def shippedRate : BitVec 11 := 1088

/-- The shipped capacity in bits (R6). -/
def shippedCapacity : BitVec 11 := 512

/-- The shipped domain-separation suffix (R6). -/
def shippedSuffix : Byte := 0x1F

end Config

end Sys2Proof
end

