-- ==== Sys2Proof/Syntax.lean ====
section
/-! DEFINITION. The command set: one constructor per row of spec/opcode_table.json, with the operand
fields of rule R78. Every operand is an immediate value read straight from the command word. -/

namespace Sys2Proof

/-- TEXT's operand bit D (R76): 0 is encrypt, 1 is decrypt. -/
inductive Direction where
  | encrypt
  | decrypt
  deriving DecidableEq, Repr

/-- A command (R79). -/
inductive Instr where
  /-- INIT: RATE (rate_bits), CAP (capacity_bits), SFX (R74, R131). -/
  | init (rate cap : BitVec 11) (sfx : Byte)
  /-- ABSORB: E selects the empty form, B is the data byte (R75, R133, R135). -/
  | absorb (empty : Bool) (b : Byte)
  /-- SQUEEZE: E selects the empty form (R75, R140, R142). -/
  | squeeze (empty : Bool)
  /-- XOR: B is the input byte (R161). -/
  | xor (b : Byte)
  /-- TEXT: D is the direction, CHAR the input character (R76, R167). -/
  | text (d : Direction) (c : CharCode)
  /-- ALPHA_CLEAR (R170). -/
  | alphaClear
  /-- ALPHA_APPEND: CHAR is the symbol (R171). -/
  | alphaAppend (c : CharCode)
  /-- STATUS (R190). -/
  | status
  /-- KECCAK_F, a test-port command (R114). -/
  | keccakF
  /-- LANE_READ, a test-port command: IDX is the lane index (R77, R191). -/
  | laneRead (idx : BitVec 5)
  deriving DecidableEq, Repr

end Sys2Proof
end

