-- ==== Sys2Proof/WellFormed.lean ====
section
/-! DEFINITION. The checks on a command that its operand widths do not already make: the lane index of
LANE_READ (R80) and the presence of the test port (R77). Every other legal operand value of rule R80 is a
value of the constructor's field types. -/

namespace Sys2Proof

/-- KECCAK_F and LANE_READ are the test-port commands (R77). -/
def Instr.isTestPort : Instr → Bool
  | .keccakF => true
  | .laneRead _ => true
  | .init _ _ _ => false
  | .absorb _ _ => false
  | .squeeze _ => false
  | .xor _ => false
  | .text _ _ => false
  | .alphaClear => false
  | .alphaAppend _ => false
  | .status => false

/-- R80: LANE_READ's IDX is at most 24; the other commands carry no lane index. -/
def Instr.laneIndexOk : Instr → Bool
  | .laneRead idx => decide (idx.toNat ≤ 24)
  | .keccakF => true
  | .init _ _ _ => true
  | .absorb _ _ => true
  | .squeeze _ => true
  | .xor _ => true
  | .text _ _ => true
  | .alphaClear => true
  | .alphaAppend _ => true
  | .status => true

/-- A command that the core built with `b` can be given: its encoding is legal by R80 and R81. -/
def Instr.wellFormed (b : Build) (i : Instr) : Bool :=
  i.laneIndexOk && (b.testPort || !i.isTestPort)

end Sys2Proof
end

