-- ==== Sys2Proof/Decode.lean ====
section
/-! DEFINITION. The decoder of rules R70 to R82, total on 64-bit words and rejecting by name, and after it
the encoder, written from the layouts of rules R73 to R77. -/

namespace Sys2Proof

/-- Why a word is an illegal encoding (R81). The core answers all of them alike, with ERR_ILLEGAL. -/
inductive Illegal where
  /-- The opcode is not in the map of R79. -/
  | undefinedOpcode
  /-- A bit that the opcode's format does not name is 1 (R72). -/
  | reservedBit
  /-- A field that the opcode does not use is not 0: SQUEEZE's B, XOR's E, ALPHA_APPEND's D (R80). -/
  | unusedField
  /-- LANE_READ with IDX above 24 (R80). -/
  | laneIndex
  /-- KECCAK_F or LANE_READ in a core built without the test port (R77). -/
  | testPortAbsent
  deriving DecidableEq, Repr

/-- A row of R80's table, with the reserved bits of its format (R72). -/
structure Row where
  /-- R80's match value. -/
  pattern : Word
  /-- R80's mask. -/
  mask : Word
  /-- The bits of [55:0] that the row's format does not name (R72). -/
  reserved : Word
  deriving DecidableEq, Repr

/-- A word spells a row's opcode when it agrees with the pattern under the mask (R80). -/
def Row.spells (r : Row) (w : Word) : Bool := w &&& r.mask == r.pattern

def rowInit : Row := ⟨0x0100000000000000, 0xFFFFF800F800FF00, 0x00FFF800F800FF00⟩
def rowAbsorb : Row := ⟨0x0200000000000000, 0xFFFFFFFFFFFFFE00, 0x00FFFFFFFFFFFE00⟩
def rowSqueeze : Row := ⟨0x0300000000000000, 0xFFFFFFFFFFFFFEFF, 0x00FFFFFFFFFFFE00⟩
def rowXor : Row := ⟨0x0400000000000000, 0xFFFFFFFFFFFFFF00, 0x00FFFFFFFFFFFE00⟩
def rowText : Row := ⟨0x0500000000000000, 0xFFFFFFFE00000000, 0x00FFFFFE00000000⟩
def rowAlphaClear : Row := ⟨0x0600000000000000, 0xFFFFFFFFFFFFFFFF, 0x00FFFFFFFFFFFFFF⟩
def rowAlphaAppend : Row := ⟨0x0700000000000000, 0xFFFFFFFF00000000, 0x00FFFFFE00000000⟩
def rowStatus : Row := ⟨0x0800000000000000, 0xFFFFFFFFFFFFFFFF, 0x00FFFFFFFFFFFFFF⟩
def rowKeccakF : Row := ⟨0x0900000000000000, 0xFFFFFFFFFFFFFFFF, 0x00FFFFFFFFFFFFFF⟩
def rowLaneRead : Row := ⟨0x0A00000000000000, 0xFFFFFFFFFFFFFFE0, 0x00FFFFFFFFFFFFE0⟩

/-- The rows in opcode order, 0x01 to 0x0A (R79). -/
def rows : List Row :=
  [rowInit, rowAbsorb, rowSqueeze, rowXor, rowText, rowAlphaClear, rowAlphaAppend, rowStatus, rowKeccakF,
    rowLaneRead]

/-- Which clause of R81 a word breaks that spells no row. -/
def illegalReason (w : Word) : Illegal :=
  match rows.find? (fun r => w &&& 0xFF00000000000000 == r.pattern) with
  | none => .undefinedOpcode
  | some r => if w &&& r.reserved == 0 then .unusedField else .reservedBit

/-- TEXT's D bit (R76). -/
def Direction.ofBit (d : Bool) : Direction := if d then .decrypt else .encrypt

/-- The bit of a direction (R76). -/
def Direction.toBit : Direction → Bool
  | .encrypt => false
  | .decrypt => true

/-- The decoder (R82), with the fields read as R78 says. It takes whole 64-bit words (R70). -/
def decode (b : Build) (w : Word) : Except Illegal Instr :=
  if rowInit.spells w then
    .ok (.init (w.extractLsb' 32 11) (w.extractLsb' 16 11) (w.extractLsb' 0 8))
  else if rowAbsorb.spells w then
    .ok (.absorb (w.getLsbD 8) (w.extractLsb' 0 8))
  else if rowSqueeze.spells w then
    .ok (.squeeze (w.getLsbD 8))
  else if rowXor.spells w then
    .ok (.xor (w.extractLsb' 0 8))
  else if rowText.spells w then
    .ok (.text (Direction.ofBit (w.getLsbD 32)) (w.extractLsb' 0 32))
  else if rowAlphaClear.spells w then
    .ok .alphaClear
  else if rowAlphaAppend.spells w then
    .ok (.alphaAppend (w.extractLsb' 0 32))
  else if rowStatus.spells w then
    .ok .status
  else if rowKeccakF.spells w then
    if b.testPort then .ok .keccakF else .error .testPortAbsent
  else if rowLaneRead.spells w then
    if 24 < (w.extractLsb' 0 5).toNat then .error .laneIndex
    else if b.testPort then .ok (.laneRead (w.extractLsb' 0 5))
    else .error .testPortAbsent
  else
    .error (illegalReason w)

/-- The command word of a command, field by field from bit 63 down (R73 to R77, opcodes of R79). -/
def encode : Instr → Word
  | .init rate cap sfx => 0x01#8 ++ 0#13 ++ rate ++ 0#5 ++ cap ++ 0#8 ++ sfx
  | .absorb e b => 0x02#8 ++ 0#47 ++ BitVec.ofBool e ++ b
  | .squeeze e => 0x03#8 ++ 0#47 ++ BitVec.ofBool e ++ 0#8
  | .xor b => 0x04#8 ++ 0#48 ++ b
  | .text d c => 0x05#8 ++ 0#23 ++ BitVec.ofBool d.toBit ++ c
  | .alphaClear => 0x06#8 ++ 0#56
  | .alphaAppend c => 0x07#8 ++ 0#24 ++ c
  | .status => 0x08#8 ++ 0#56
  | .keccakF => 0x09#8 ++ 0#56
  | .laneRead idx => 0x0A#8 ++ 0#51 ++ idx

/-- The row of R80's table that a command's words spell. -/
def rowOf : Instr → Row
  | .init _ _ _ => rowInit
  | .absorb _ _ => rowAbsorb
  | .squeeze _ => rowSqueeze
  | .xor _ => rowXor
  | .text _ _ => rowText
  | .alphaClear => rowAlphaClear
  | .alphaAppend _ => rowAlphaAppend
  | .status => rowStatus
  | .keccakF => rowKeccakF
  | .laneRead _ => rowLaneRead

/-- The command the decoder of the default build reads from a command word given as a number, bit 0 its
least significant bit; the bits from `nbits` up are 0. The port carries the 64 bits as one parallel word,
so no byte order applies (R66). -/
def decodeTableWord (nbits w : Nat) : Option Instr :=
  match decode Config.defaultBuild (BitVec.ofNat 64 (w % 2 ^ nbits)) with
  | .ok i => some i
  | .error _ => none

end Sys2Proof
end

