-- ==== Sys2Proof/Machine/ResetValues.lean ====
section
/-! DEFINITION. The values of rule R41 that are more than a zero: the default alphabet. -/

namespace Sys2Proof.Machine

/-- Entry `j` of the alphabet table after reset (R41): 'a' to 'z', space, then 0. -/
def defaultSymbol (j : Nat) : CharCode :=
  if j < 26 then BitVec.ofNat 32 (0x61 + j)
  else if j = 26 then 0x20
  else 0

/-- The alphabet table after reset (R41). -/
def defaultAlphabet : Alphabet := Vector.ofFn fun j => defaultSymbol j.val

/-- The alphabet length after reset (R41): 27 symbols. -/
def defaultAlphabetLength : Byte := 27

/-- The lanes after reset (R41) and after INIT (R131): all zero. -/
def zeroLanes : Lanes := Vector.replicate 25 0

end Sys2Proof.Machine
end

