-- ==== Sys2Proof/Machine/State.lean ====
section
/-! DEFINITION. The machine's state: the record of rule R20, the two port registers a transaction needs
(R83, R87), and the inputs and build parameters that the spec hands to a model as arguments (R8, R18, R42). -/

namespace Sys2Proof.Machine

/-- Why the machine stops. A fault is no response of the core: the core's own errors are the fatal errors
of R213, which are next states. -/
inductive Fault where
  /-- An access to a byte of the state byte view outside addresses 0 to 199, which R50 says do not exist.
  Raised by `stateByte` and `stateXorByte`. No state that a run reaches from reset raises it (R29, R53).
  Safe: the model stops where the spec gives the access no meaning. -/
  | noStateByte
  deriving DecidableEq, Repr

/-- Why the machine gives a command no meaning. -/
inductive Refusal where
  /-- The command has no meaning in this model. Raised by an arm of `exec` that is not modelled, of which
  there is none. Safe: no claim about the command can be proved. -/
  | notModelled (mnemonic : String)
  deriving DecidableEq, Repr

/-- The response codes of R84. Codes 6 to 15 are never produced, so they have no constructor. -/
inductive RspCode where
  | ok
  | illegal
  | noSession
  | config
  | order
  | faulted
  deriving DecidableEq, Repr

/-- The 4-bit value of a response code (R84). -/
def RspCode.bits : RspCode → BitVec 4
  | .ok => 0
  | .illegal => 1
  | .noSession => 2
  | .config => 3
  | .order => 4
  | .faulted => 5

/-- A response: what rsp_code and rsp_data hold (R83, R86). -/
structure Response where
  code : RspCode
  data : Word
  deriving DecidableEq, Repr

/-- What the host does at the port, its only way to reach the core (R55, R86, R87). -/
inductive PortInput where
  /-- The host holds cmd_valid with this command word until it is issued. -/
  | command (w : Word)
  /-- The host asserts rsp_ready: a waiting response is delivered. -/
  | takeResponse
  /-- The host asserts rst (R240). -/
  | reset
  deriving DecidableEq, Repr

/-- The machine. The first eleven fields are the record of R20, in its order; the last four are the
model's own. -/
structure State where
  /-- `lane[0..24]` (R21). -/
  lane : Lanes
  /-- `CFG`: a session exists (R23). -/
  cfg : Bool
  /-- `rate_bytes` (R24). -/
  rateBytes : Byte
  /-- `suffix` (R25). -/
  suffix : Byte
  /-- `absorbed` (R26). -/
  absorbed : Byte
  /-- `squeezed` (R27). -/
  squeezed : Byte
  /-- `WARN`, the alphabet mismatch flag (R31). -/
  warn : Bool
  /-- `FLT`, the fault flag (R32). -/
  flt : Bool
  /-- `ERR`, the code of the fatal error that set FLT (R33). -/
  err : BitVec 4
  /-- `alpha[0..254]` (R34). -/
  alpha : Alphabet
  /-- `alen` (R35). -/
  alen : Byte
  /-- The build parameters (R8); no step writes them. -/
  build : Build
  /-- What the host does next at the port, first action first (R18, R36). -/
  inputs : List PortInput
  /-- A command is in flight whose response never comes: a TEXT whose rejection loop never ends (R164,
  R249). Only reset ends it (R240). -/
  busy : Bool
  /-- The response port: a response not yet delivered. rsp_valid is 1 exactly when it is `some` (R86). -/
  rsp : Option Response
  deriving DecidableEq, Repr

/-- The machine right after reset (R41, R240), in the default build, with nothing on the port. -/
def State.reset : State where
  lane := zeroLanes
  cfg := false
  rateBytes := 0
  suffix := 0
  absorbed := 0
  squeezed := 0
  warn := false
  flt := false
  err := 0
  alpha := defaultAlphabet
  alen := defaultAlphabetLength
  build := Config.defaultBuild
  inputs := []
  busy := false
  rsp := none

end Sys2Proof.Machine
end

