-- ==== Sys2Proof/Machine/Flags.lean ====
section
/-! DEFINITION. What is computed from the stored flags and counters: the phase (R28), the valid and ready
signals of the core's side of the port (R86, R87), the capacity (R24) and the status word (R40). -/

namespace Sys2Proof.Machine

/-- The phase of a session (R28). -/
inductive Phase where
  | absorb
  | squeeze
  deriving DecidableEq, Repr

/-- The phase is no stored state but this function of it (R28). -/
def State.phase (s : State) : Phase :=
  if s.cfg && s.squeezed != s.rateBytes then .squeeze else .absorb

/-- SQZ, bit 1 of the status word (R40). -/
def State.sqz (s : State) : Bool := s.phase == .squeeze

/-- cmd_ready (R87): no command is in flight and no response waits for delivery. -/
def State.cmdReady (s : State) : Bool := !s.busy && s.rsp.isNone

/-- rsp_valid (R86): a response waits for delivery. -/
def State.rspValid (s : State) : Bool := s.rsp.isSome

/-- The capacity in bits, which is not stored (R24). -/
def State.capacityBits (s : State) : Nat := 1600 - 8 * s.rateBytes.toNat

/-- The status word (R40): the fields from ALEN down to CFG, zero-extended to 64 bits. -/
def statusWord (s : State) : Word :=
  (s.alen ++ s.suffix ++ s.rateBytes ++ s.squeezed ++ s.absorbed ++ s.err ++ BitVec.ofBool s.flt
    ++ BitVec.ofBool s.warn ++ BitVec.ofBool s.sqz ++ BitVec.ofBool s.cfg).setWidth 64

end Sys2Proof.Machine
end

