-- ==== Sys2Proof/Machine/Keccak.lean ====
section
/-! DEFINITION. The Permutation Engine's function Keccak-f[1600] (R100 to R112), pure on the 25 lanes. -/

namespace Sys2Proof.Machine

/-- Rotation left of a lane by 0 to 63 bits (R10); the case 0 stands on its own there. -/
def rotl64 (v : Word) (n : Nat) : Word :=
  if n = 0 then v else (v <<< n) ||| (v >>> (64 - n))

/-- The lane index of grid position (x, y): `x + 5y` (R11). -/
def laneIndex (x y : Fin 5) : Fin 25 := ⟨x.val + 5 * y.val, by omega⟩

/-- The column x of a lane index (R11). -/
def columnOf (i : Fin 25) : Fin 5 := ⟨i.val % 5, Nat.mod_lt _ (by decide)⟩

/-- The row y of a lane index (R11). -/
def rowNumberOf (i : Fin 25) : Fin 5 := ⟨i.val / 5, by omega⟩

/-- `A[x, y]` (R11). -/
def laneAt (A : Lanes) (x y : Fin 5) : Word := A[laneIndex x y]

/-- The lanes whose grid position (x, y) holds `f x y`. -/
def lanesOf (f : Fin 5 → Fin 5 → Word) : Lanes :=
  Vector.ofFn fun i => f (columnOf i) (rowNumberOf i)

/-- Theta's column parities `C[x]` (R102). -/
def columnParity (A : Lanes) : Vector Word 5 :=
  Vector.ofFn fun x => laneAt A x 0 ^^^ laneAt A x 1 ^^^ laneAt A x 2 ^^^ laneAt A x 3 ^^^ laneAt A x 4

/-- Theta's `D[x]`, with index arithmetic mod 5 (R102). -/
def thetaMask (A : Lanes) : Vector Word 5 :=
  let C := columnParity A
  Vector.ofFn fun x => C[x + 4] ^^^ rotl64 C[x + 1] 1

/-- Theta (R102). -/
def thetaStep (A : Lanes) : Lanes :=
  let D := thetaMask A
  lanesOf fun x y => laneAt A x y ^^^ D[x]

/-- The rho offsets by lane index (R104). -/
def rhoOffsets : Vector Nat 25 :=
  #v[0, 1, 62, 28, 27,
     36, 44, 6, 55, 20,
     3, 10, 43, 25, 39,
     41, 45, 15, 21, 8,
     18, 2, 61, 56, 14]

/-- Rho (R103). -/
def rhoStep (A : Lanes) : Lanes := Vector.ofFn fun i => rotl64 A[i] rhoOffsets[i]

/-- `PI_SRC`: the source lane of each destination lane (R106). -/
def piSource : Vector (Fin 25) 25 :=
  #v[0, 6, 12, 18, 24, 3, 9, 10, 16, 22, 1, 7, 13, 19, 20, 4, 5, 11, 17, 23, 2, 8, 14, 15, 21]

/-- Pi, by `Pi(A)[j] = A[PI_SRC[j]]` (R105, R106). -/
def piStep (A : Lanes) : Lanes := Vector.ofFn fun j => A[piSource[j]]

/-- Chi (R107): every new lane is computed from the input lanes. -/
def chiStep (A : Lanes) : Lanes :=
  lanesOf fun x y => laneAt A x y ^^^ (~~~(laneAt A (x + 1) y) &&& laneAt A (x + 2) y)

/-- The table of R109 as it is printed: row `i`, of 0 to 11, holds `RC[i]` and `RC[i + 12]`. -/
def roundConstantTable : Vector (Word × Word) 12 :=
  #v[(0x0000000000000001, 0x000000008000808B),
     (0x0000000000008082, 0x800000000000008B),
     (0x800000000000808A, 0x8000000000008089),
     (0x8000000080008000, 0x8000000000008003),
     (0x000000000000808B, 0x8000000000008002),
     (0x0000000080000001, 0x8000000000000080),
     (0x8000000080008081, 0x000000000000800A),
     (0x8000000000008009, 0x800000008000000A),
     (0x000000000000008A, 0x8000000080008081),
     (0x0000000000000088, 0x8000000000008080),
     (0x0000000080008009, 0x0000000080000001),
     (0x000000008000000A, 0x8000000080008008)]

/-- The round constants by round number (R109). -/
def roundConstants : Vector Word 24 :=
  roundConstantTable.map Prod.fst ++ roundConstantTable.map Prod.snd

/-- Iota (R108). -/
def iotaStep (A : Lanes) (i : Fin 24) : Lanes := A.set 0 (A[0] ^^^ roundConstants[i])

/-- One round: theta, rho, pi, chi, iota, in this order (R101). -/
def keccakRound (A : Lanes) (i : Fin 24) : Lanes :=
  iotaStep (chiStep (piStep (rhoStep (thetaStep A)))) i

/-- Keccak-f[1600]: rounds 0 to 23 in order (R110). -/
@[irreducible] def keccakF (A : Lanes) : Lanes := (List.finRange 24).foldl keccakRound A

end Sys2Proof.Machine
end

