-- ==== Sys2Proof/Machine/Operands.lean ====
section
/-! DEFINITION. What the commands compute from their operands alone: INIT's configuration (R131), TEXT's
index arithmetic (R166) and the response data words (R85). -/

namespace Sys2Proof.Machine

/-- INIT's check (R131): the sum is exact, with no 11-bit wrap. -/
def configLegal (rate cap : BitVec 11) : Bool :=
  decide (rate.toNat + cap.toNat = 1600) && decide (rate.toNat % 8 = 0) && decide (rate.toNat ≠ 0)

/-- `rate_bytes = rate_bits div 8` (R24). -/
def rateBytesOf (rate : BitVec 11) : Byte := BitVec.ofNat 8 (rate.toNat / 8)

/-- The modular map of an index `i` by a key `k`, both below `L` (R166). The result is below `L`. -/
def shiftIndex (d : Direction) (L i k : Nat) : Nat :=
  match d with
  | .encrypt => (i + k) % L
  | .decrypt => if k ≤ i then i - k else i + L - k

/-- Response data holding one byte (R85). -/
def byteData (b : Byte) : Word := b.setWidth 64

/-- TEXT's response data for a mapped character: bit 32 is 0 (R85, R167). -/
def symbolData (c : CharCode) : Word := (0#1 ++ c).setWidth 64

/-- TEXT's response data for a passthrough: bit 32 is 1 (R85, R168). -/
def passthroughData (c : CharCode) : Word := (1#1 ++ c).setWidth 64

/-- `suffix[7]`, the bit Pad tests (R136). -/
def topBit (b : Byte) : Bool := b.getLsbD 7

end Sys2Proof.Machine
end

