-- ==== Sys2Proof/Machine/Ops.lean ====
section
/-! DEFINITION. The named operations the commands share: responses and the fatal-error entry (R213), the
prologue Check (R215), reset (R240), the state byte view (R13, R50), and the sponge's procedures (R134, R136,
R141). -/

namespace Sys2Proof.Machine

/-! ### Responses, errors, reset -/

/-- `respond(code, data)` ends a command and puts the response on the port (R14, R85). -/
def respond (code : RspCode) (data : Word) (s : State) : State :=
  { s with rsp := some ⟨code, data⟩ }

/-- `raise Fatal(code)`, the only trap mechanism (R213). It saves the code in ERR, sets FLT and answers
with data 0. There is no vector, no saved program counter and no mode change. -/
def fatal (code : RspCode) (s : State) : State :=
  respond code 0 { s with flt := true, err := code.bits }

/-- `Check(w, needs_session)`, the prologue of every command, with `d` what the word decodes to, `none`
for an illegal word (R215). It gives the state in which the command ends when a check fails, and `none`
when all pass. -/
def check (d : Option Instr) (needsSession : Bool) (s : State) : Option State :=
  if s.flt && d != some .status then some (respond .faulted 0 s)
  else match d with
    | none => some (fatal .illegal s)
    | some i =>
      if !i.wellFormed s.build then some (fatal .illegal s)
      else if needsSession && !s.cfg then some (fatal .noSession s)
      else none

/-- What the core does with an illegal word: its prologue always ends it (R81, R215, R216). -/
def execIllegal (s : State) : Host.Outcome State Fault Refusal :=
  match check none false s with
  | some t => .next t
  | none => .next s

/-- Reset (R240): every element of the state record takes its value of R41, the command in flight is
abandoned and an undelivered response is discarded. It is the only return from FAULTED (R217). The build
parameters and what the host does next are no state of the core. -/
def resetCore (s : State) : State :=
  { State.reset with build := s.build, inputs := s.inputs }

/-! ### The command port -/

/-- A waiting response is delivered (R87); with none waiting nothing happens. -/
def deliver (s : State) : State := { s with rsp := none }

/-! ### The state byte view -/

/-- Byte `j` of a lane, little-endian (R50, R51). -/
def laneByte (v : Word) (j : Nat) : Byte := (v >>> (8 * j)).setWidth 8

/-- `StateByte(i)` (R13, R50). -/
def stateByte (i : Nat) (s : State) : Except Fault Byte :=
  if h : i < Config.stateBytes then
    .ok (laneByte (s.lane[i / 8]'(by simp only [Config.stateBytes] at h; omega)) (i % 8))
  else .error .noStateByte

/-- `StateXorByte(i, v)` (R13, R52). -/
def stateXorByte (i : Nat) (v : Byte) (s : State) : Except Fault State :=
  if h : i < Config.stateBytes then
    have hi : i / 8 < 25 := by simp only [Config.stateBytes] at h; omega
    .ok { s with lane := s.lane.set (i / 8) (s.lane[i / 8] ^^^ (v.setWidth 64 <<< (8 * (i % 8)))) hi }
  else .error .noStateByte

/-- `Permute()` (R110): it changes only the lanes. -/
def permute (s : State) : State := { s with lane := keccakF s.lane }

/-! ### The sponge's procedures -/

/-- The counter step of AbsorbByte: at the block's end the permutation runs in the same command (R134). -/
def advanceAbsorbed (s : State) : State :=
  if s.absorbed + 1 = s.rateBytes then { permute s with absorbed := 0 }
  else { s with absorbed := s.absorbed + 1 }

/-- `AbsorbByte(b)` (R134). -/
def absorbByte (b : Byte) (s : State) : Except Fault State :=
  match stateXorByte s.absorbed.toNat b s with
  | .error f => .error f
  | .ok t => .ok (advanceAbsorbed t)

/-- The permutation in the middle of Pad, when the suffix's top bit is the block's last bit (R136, R137). -/
def padMiddle (s : State) : State :=
  if topBit s.suffix && s.absorbed == s.rateBytes - 1 then permute s else s

/-- `Pad()` (R136). It reads `absorbed` and does not write it (R138). -/
def pad (s : State) : Except Fault State :=
  match stateXorByte s.absorbed.toNat s.suffix s with
  | .error f => .error f
  | .ok t =>
    match stateXorByte (t.rateBytes - 1).toNat 0x80 (padMiddle t) with
    | .error f => .error f
    | .ok u => .ok { permute u with squeezed := 0 }

/-- Pad on entry to a squeeze, when no squeeze has happened yet: `squeezed = rate_bytes` (R141). -/
def padIfVirgin (s : State) : Except Fault State :=
  if s.squeezed = s.rateBytes then pad s else .ok s

/-- The counter step of SqueezeByte: at the block's end the permutation runs in the same command (R141). -/
def advanceSqueezed (s : State) : State :=
  if s.squeezed + 1 = s.rateBytes then { permute s with squeezed := 0 }
  else { s with squeezed := s.squeezed + 1 }

/-- `SqueezeByte()` (R141): the keystream byte and the state after it. -/
def squeezeByte (s : State) : Except Fault (Byte × State) :=
  match padIfVirgin s with
  | .error f => .error f
  | .ok t =>
    match stateByte t.squeezed.toNat t with
    | .error f => .error f
    | .ok k => .ok (k, advanceSqueezed t)

end Sys2Proof.Machine
end

