-- ==== Sys2Proof/Machine/Control.lean ====
section
/-! DEFINITION. The commands that only read state: STATUS (R190) and LANE_READ (R191). -/

namespace Sys2Proof.Machine

/-- STATUS (R190): the only command that completes while FAULTED. -/
def execStatus (s : State) : Host.Outcome State Fault Refusal :=
  match check (some .status) false s with
  | some t => .next t
  | none => .next (respond .ok (statusWord s) s)

/-- LANE_READ (R191). The prologue has refused an index above 24 (R80, R82). -/
def execLaneRead (idx : BitVec 5) (s : State) : Host.Outcome State Fault Refusal :=
  match check (some (.laneRead idx)) true s with
  | some t => .next t
  | none => .next (respond .ok s.lane[Fin.ofNat 25 idx.toNat] s)

end Sys2Proof.Machine
end

