-- ==== Sys2Proof/Machine/Keystream.lean ====
section
/-! DEFINITION. The Keystream Cipher Layer: XOR (R161), TEXT (R163 to R168), ALPHA_CLEAR (R170) and
ALPHA_APPEND (R171). -/

namespace Sys2Proof.Machine

/-- XOR (R161). -/
def execXor (b : Byte) (s : State) : Host.Outcome State Fault Refusal :=
  match check (some (.xor b)) true s with
  | some t => .next t
  | none =>
    match squeezeByte s with
    | .ok (k, t) => .next (respond .ok (byteData (b ^^^ k)) t)
    | .error f => .fault f

/-- `Lookup(c)` (R163): the linear scan in which a later match overwrites an earlier one. -/
def lookup (c : CharCode) (s : State) : Option Nat :=
  (List.range s.alen.toNat).foldl (fun found j => if s.alpha[j]? = some c then some j else found) none

/-- `alpha[j]`, read for an index below alen (R167), hence below 255. -/
def symbolAt (s : State) (j : Nat) : CharCode := s.alpha[Fin.ofNat 255 j]

/-- How a rejection sampling ends. -/
inductive Draw where
  /-- The key `k` was accepted, and `s` is the state after its draw. -/
  | key (k : Byte) (s : State)
  /-- None of the draws counted was accepted. -/
  | none
  /-- A draw stopped with a fault. -/
  | stopped (f : Fault)
  deriving DecidableEq, Repr

/-- At most `n` draws of `DrawKey(L)` (R164): each draws one keystream byte and accepts it below `L`. -/
def drawKey (L : Nat) : Nat → State → Draw
  | 0, _ => .none
  | n + 1, s =>
    match squeezeByte s with
    | .error f => .stopped f
    | .ok (k, t) => if k.toNat < L then .key k t else drawKey L n t

/-- The number of values of (lanes, squeezed), all that a draw changes. A loop that this many draws do not
end has come back to a state it was in, so it never ends: the bound is none (R164). -/
@[irreducible] def drawBound : Nat := 2 ^ 1608

/-- TEXT (R167, R168). Where the rejection loop never ends, the command stays in flight and no response
comes (R164, R249). -/
def execText (d : Direction) (c : CharCode) (s : State) : Host.Outcome State Fault Refusal :=
  match check (some (.text d c)) true s with
  | some t => .next t
  | none =>
    match lookup c s with
    | none => .next (respond .ok (passthroughData c) { s with warn := true })
    | some i =>
      match drawKey s.alen.toNat drawBound s with
      | .key k t =>
        .next (respond .ok (symbolData (symbolAt s (shiftIndex d s.alen.toNat i k.toNat))) t)
      | .none => .next { s with busy := true }
      | .stopped f => .fault f

/-- ALPHA_CLEAR (R170): the entries keep their values. -/
def execAlphaClear (s : State) : Host.Outcome State Fault Refusal :=
  match check (some .alphaClear) false s with
  | some t => .next t
  | none => .next (respond .ok 0 { s with alen := 0 })

/-- ALPHA_APPEND (R171); a symbol equal to an earlier one is accepted (R172). -/
def execAlphaAppend (c : CharCode) (s : State) : Host.Outcome State Fault Refusal :=
  match check (some (.alphaAppend c)) false s with
  | some t => .next t
  | none =>
    if h : s.alen.toNat < Config.alphaMax then
      .next (respond .ok 0 { s with alpha := s.alpha.set s.alen.toNat c h, alen := s.alen + 1 })
    else .next (fatal .config s)

end Sys2Proof.Machine
end

