-- ==== Sys2Proof/Machine/Permutation.lean ====
section
/-! DEFINITION. The command of the Permutation Engine: KECCAK_F (R114). -/

namespace Sys2Proof.Machine

/-- KECCAK_F (R114): one permutation of the lanes, in either phase. -/
def execKeccakF (s : State) : Host.Outcome State Fault Refusal :=
  match check (some .keccakF) true s with
  | some t => .next t
  | none => .next (respond .ok 0 (permute s))

end Sys2Proof.Machine
end

