-- ==== Sys2Proof/Machine/Sponge.lean ====
section
/-! DEFINITION. The commands of the Sponge Engine: INIT (R131), ABSORB (R133, R135), SQUEEZE (R140, R142). -/

namespace Sys2Proof.Machine

/-- The session INIT starts (R131). -/
def startSession (rate : BitVec 11) (sfx : Byte) (s : State) : State :=
  { s with
    lane := zeroLanes
    rateBytes := rateBytesOf rate
    suffix := sfx
    absorbed := 0
    squeezed := rateBytesOf rate
    cfg := true
    warn := false }

/-- INIT (R131). -/
def execInit (rate cap : BitVec 11) (sfx : Byte) (s : State) : Host.Outcome State Fault Refusal :=
  match check (some (.init rate cap sfx)) false s with
  | some t => .next t
  | none =>
    if configLegal rate cap then .next (respond .ok 0 (startSession rate sfx s))
    else .next (fatal .config s)

/-- ABSORB and ABSORB.E (R133, R135). The phase check comes first in both forms. -/
def execAbsorb (empty : Bool) (b : Byte) (s : State) : Host.Outcome State Fault Refusal :=
  match check (some (.absorb empty b)) true s with
  | some t => .next t
  | none =>
    if s.phase = .squeeze then .next (fatal .order s)
    else if empty then .next (respond .ok 0 s)
    else match absorbByte b s with
      | .ok t => .next (respond .ok 0 t)
      | .error f => .fault f

/-- SQUEEZE.E pads in phase ABSORB and does nothing else (R142). -/
def closeAbsorbPhase (s : State) : Except Fault State :=
  if s.phase = .absorb then pad s else .ok s

/-- SQUEEZE and SQUEEZE.E (R140, R142). -/
def execSqueeze (empty : Bool) (s : State) : Host.Outcome State Fault Refusal :=
  match check (some (.squeeze empty)) true s with
  | some t => .next t
  | none =>
    if empty then
      match closeAbsorbPhase s with
      | .ok t => .next (respond .ok 0 t)
      | .error f => .fault f
    else
      match squeezeByte s with
      | .ok (k, t) => .next (respond .ok (byteData k) t)
      | .error f => .fault f

end Sys2Proof.Machine
end

