-- ==== Sys2Proof/Machine/Dispatch.lean ====
section
/-! DEFINITION. One arm per command, each one direct call of its meaning. -/

namespace Sys2Proof.Machine

def exec (i : Instr) (s : State) : Host.Outcome State Fault Refusal :=
  match i with
  | .init rate cap sfx => Sys2Proof.Machine.execInit rate cap sfx s
  | .absorb empty b => Sys2Proof.Machine.execAbsorb empty b s
  | .squeeze empty => Sys2Proof.Machine.execSqueeze empty s
  | .xor b => Sys2Proof.Machine.execXor b s
  | .text d c => Sys2Proof.Machine.execText d c s
  | .alphaClear => Sys2Proof.Machine.execAlphaClear s
  | .alphaAppend c => Sys2Proof.Machine.execAlphaAppend c s
  | .status => Sys2Proof.Machine.execStatus s
  | .keccakF => Sys2Proof.Machine.execKeccakF s
  | .laneRead idx => Sys2Proof.Machine.execLaneRead idx s

end Sys2Proof.Machine
end

