-- ==== Sys2Proof/Machine/Step.lean ====
section
/-! DEFINITION. One step of the machine (R18, R87): take the host's next action at the port; a command that
the port accepts is decoded and executed atomically, and its response put on the port. -/

namespace Sys2Proof.Machine

/-- One step. Nothing on the port: the core is idle and holds all its state (R227). A command that the port
does not accept waits (R87). -/
def step (s : State) : Host.Outcome State Fault Refusal :=
  match s.inputs with
  | [] => .next s
  | .reset :: rest => .next (resetCore { s with inputs := rest })
  | .takeResponse :: rest => .next (deliver { s with inputs := rest })
  | .command w :: rest =>
    if s.cmdReady then
      match decode s.build w with
      | .ok i => exec i { s with inputs := rest }
      | .error _ => execIllegal { s with inputs := rest }
    else .next s

/-- `s` with the command word `w` (its bits from `nbits` up are 0) as the host's next action, on a port that
accepts it. -/
def State.withFetchWord (s : State) (nbits w : Nat) : State :=
  { s with
    inputs := .command (BitVec.ofNat 64 (w % 2 ^ nbits)) :: s.inputs
    busy := false
    rsp := none }

end Sys2Proof.Machine
end

