-- ==== Sys2Proof/Machine/Assembler.lean ====
section
/-! DEFINITION. The host command language of R88: a line with its operands as numbers, and the word it
encodes. Reading the text of a line is the host's. -/

namespace Sys2Proof.Machine

/-- A line of the host command language (R88). A character operand stands for its code. -/
inductive AsmLine where
  | init (r c s : Nat)
  | absorb (b : Nat)
  | absorbE
  | squeeze
  | squeezeE
  | xor (b : Nat)
  | textEnc (ch : Nat)
  | textDec (ch : Nat)
  | alphaClear
  | alphaAppend (ch : Nat)
  | status
  | keccakF
  | laneRead (i : Nat)
  deriving DecidableEq, Repr

/-- An operand as a field of `width` bits, or nothing where it does not fit: an assembler never truncates
(R88). -/
def asField (width n : Nat) : Option (BitVec width) :=
  if n < 2 ^ width then some (BitVec.ofNat width n) else none

/-- The command of a line (R88). -/
def instrOfLine : AsmLine → Option Instr
  | .init r c s =>
    match asField 11 r, asField 11 c, asField 8 s with
    | some rate, some cap, some sfx => some (.init rate cap sfx)
    | _, _, _ => none
  | .absorb b => (asField 8 b).map (.absorb false)
  | .absorbE => some (.absorb true 0)
  | .squeeze => some (.squeeze false)
  | .squeezeE => some (.squeeze true)
  | .xor b => (asField 8 b).map .xor
  | .textEnc ch => (asField 32 ch).map (.text .encrypt)
  | .textDec ch => (asField 32 ch).map (.text .decrypt)
  | .alphaClear => some .alphaClear
  | .alphaAppend ch => (asField 32 ch).map .alphaAppend
  | .status => some .status
  | .keccakF => some .keccakF
  | .laneRead i => if i ≤ 24 then some (.laneRead (BitVec.ofNat 5 i)) else none

/-- The word a line encodes (R88). -/
def assemble (l : AsmLine) : Option Word := (instrOfLine l).map encode

end Sys2Proof.Machine
end

