-- ==== Sys2Proof/Machine/Api.lean ====
section
/-! DEFINITION. The pseudo-commands (R89, R192 to R198): the source's API calls as the command sequences a host
issues (`api…`), and what a call returns to the host that issues them (`call…`). -/

namespace Sys2Proof.Machine

/-- Issue commands in order, taking each response before the next command (R87). The host gets the responses
and stops after the first that is not OK (R192). There is no result where a command never answers.

DESIGN CHOICE, unsafe (assumption log 12): the spec leaves open what a pseudo-command does while a TEXT is in
flight (93 U10). A sequence is read here as issued on a core that has accepted each of its commands, so it does
not look at `busy`, and from a `busy` state it answers as from that state with no TEXT in flight. `step` does
look at it: there the port accepts no command. -/
def runCommands : List Instr → State → Option (List Response × State)
  | [], s => some ([], deliver s)
  | i :: is, s =>
    match exec i (deliver s) with
    | .next t =>
      match t.rsp with
      | none => none
      | some r =>
        if r.code = .ok then
          match runCommands is t with
          | some (rs, u) => some (r :: rs, u)
          | none => none
        else some ([r], deliver t)
    | .fault _ => none
    | .refused _ => none

/-! ### The sequences -/

/-- `new(rate_bits, capacity_bits, suffix_byte)` (R195). A rate or capacity above 2047 has no encoding, and
the host refuses the call without issuing a command. -/
def apiNew (rate cap : Nat) (sfx : Byte) : Option (List Instr) :=
  if rate ≤ 2047 ∧ cap ≤ 2047 then some [.init (BitVec.ofNat 11 rate) (BitVec.ofNat 11 cap) sfx] else none

/-- `absorb(b_0 ... b_{n-1})` (R193). -/
def apiAbsorb (bs : List Byte) : List Instr :=
  if bs.isEmpty then [.absorb true 0] else bs.map (.absorb false)

/-- `squeeze(n)` (R194). -/
def apiSqueeze (n : Nat) : List Instr :=
  if n = 0 then [.squeeze true] else List.replicate n (.squeeze false)

/-- What both ciphers begin a session with: INIT with the shipped parameters, and the password (R196, R198). -/
def apiOpenSession (password : List Byte) : List Instr :=
  .init Config.shippedRate Config.shippedCapacity Config.shippedSuffix :: apiAbsorb password

/-- `binary_cipher(password_bytes, input_bytes)` (R196). -/
def apiBinaryCipher (password input : List Byte) : List Instr :=
  apiOpenSession password ++ input.map .xor

/-- `load_alphabet(a_0 ... a_{m-1})` (R197). -/
def apiLoadAlphabet (symbols : List CharCode) : List Instr :=
  .alphaClear :: symbols.map .alphaAppend

/-- What a textual cipher issues before the input: the alphabet first, then the session (R198). -/
def apiPrepareText (password : List Byte) (alphabet : List CharCode) : List Instr :=
  apiLoadAlphabet alphabet ++ apiOpenSession password

/-- `textual_cipher(password_bytes, input_text, alphabet, direction)` (R198). -/
def apiTextualCipher (password : List Byte) (input alphabet : List CharCode) (d : Direction) : List Instr :=
  apiPrepareText password alphabet ++ (input.map (.text d) ++ [.status])

/-! ### The outputs, read from the responses -/

/-- The output byte of a response: `data[7:0]` (R196). -/
def Response.byte (r : Response) : Byte := r.data.setWidth 8

/-- The output character of a response: `data[31:0]` (R198). -/
def Response.char (r : Response) : CharCode := r.data.setWidth 32

/-- The mismatch flag of a STATUS response: bit 2, WARN (R198, R40). -/
def Response.mismatch (r : Response) : Bool := r.data.getLsbD 2

/-- The byte sequence of `squeeze(n)`: nothing for n = 0, whose one response is SQUEEZE.E's (R194). -/
def squeezeOutput (n : Nat) (rs : List Response) : List Byte :=
  if n = 0 then [] else rs.map Response.byte

/-- The output bytes of a binary cipher: those of the XOR responses, after the session's opening (R196). -/
def binaryOutput (password : List Byte) (rs : List Response) : List Byte :=
  (rs.drop (apiOpenSession password).length).map Response.byte

/-- The output text and the mismatch flag of a textual cipher with `n` input characters: the characters of the
TEXT responses, and WARN in the STATUS response that follows them (R198). -/
def textualOutput (password : List Byte) (alphabet : List CharCode) (n : Nat) (rs : List Response) :
    List CharCode × Bool :=
  let answers := rs.drop (apiPrepareText password alphabet).length
  ((answers.take n).map Response.char, (answers.drop n).any Response.mismatch)

/-! ### The calls -/

/-- How a call ends for the host (R192). -/
inductive ApiResult (α : Type) where
  /-- Every command answered OK, and this is the output. -/
  | returned (output : α)
  /-- The call failed at a command with this code, and there is no output. -/
  | failed (code : RspCode)
  deriving DecidableEq, Repr

/-- Issue a pseudo-command's sequence and read its output from the responses, or fail at the first that is not
OK (R192). There is no result where a command never answers. What a call does while a TEXT is in flight is
`runCommands`' choice (assumption log 12). -/
def callApi {α : Type} (commands : List Instr) (output : List Response → α) (s : State) :
    Option (ApiResult α × State) :=
  match runCommands commands s with
  | none => none
  | some (rs, t) =>
    match rs.find? fun r => r.code != .ok with
    | some r => some (.failed r.code, t)
    | none => some (.returned (output rs), t)

/-- The call `new` (R195): a value without an encoding is a configuration error, and no command is issued. -/
def callNew (rate cap : Nat) (sfx : Byte) (s : State) : Option (ApiResult Unit × State) :=
  match apiNew rate cap sfx with
  | some commands => callApi commands (fun _ => ()) s
  | none => some (.failed .config, s)

/-- The call `absorb` (R193). -/
def callAbsorb (bs : List Byte) : State → Option (ApiResult Unit × State) :=
  callApi (apiAbsorb bs) fun _ => ()

/-- The call `squeeze(n) -> byte_sequence` (R194). -/
def callSqueeze (n : Nat) : State → Option (ApiResult (List Byte) × State) :=
  callApi (apiSqueeze n) (squeezeOutput n)

/-- The call `binary_cipher(password_bytes, input_bytes) -> output_bytes` (R196). -/
def callBinaryCipher (password input : List Byte) : State → Option (ApiResult (List Byte) × State) :=
  callApi (apiBinaryCipher password input) (binaryOutput password)

/-- The call `load_alphabet` (R197). -/
def callLoadAlphabet (symbols : List CharCode) : State → Option (ApiResult Unit × State) :=
  callApi (apiLoadAlphabet symbols) fun _ => ()

/-- The call `textual_cipher(password_bytes, input_text, alphabet, direction) -> (output_text, mismatch)`
(R198). -/
def callTextualCipher (password : List Byte) (input alphabet : List CharCode) (d : Direction) :
    State → Option (ApiResult (List CharCode × Bool) × State) :=
  callApi (apiTextualCipher password input alphabet d) (textualOutput password alphabet input.length)

end Sys2Proof.Machine
end

