-- ==== Sys2Proof/Safety.lean ====
section
/-! DEFINITION. The terms that statements about the machine use: the invariants of a run (R24 to R33, R83),
the states in which commands run, the rejection loop without a bound (R164), and the generating rules of the
constant tables (R113). -/

namespace Sys2Proof.Machine

/-! ### Invariants -/

/-- The counters of a session (R24, R26, R27, R29). -/
abbrev State.SessionWf (s : State) : Prop :=
  1 ≤ s.rateBytes.toNat ∧ s.rateBytes.toNat ≤ 200 ∧ s.absorbed.toNat < s.rateBytes.toNat ∧
    s.squeezed.toNat ≤ s.rateBytes.toNat

/-- The session state before the first INIT: the reset values (R41), since every session command needs a
session. -/
abbrev State.NoSessionWf (s : State) : Prop :=
  s.lane = zeroLanes ∧ s.rateBytes = 0 ∧ s.suffix = 0 ∧ s.absorbed = 0 ∧ s.squeezed = 0 ∧ s.warn = false

/-- ERR is 0 exactly when FLT is 0, and is at most 4 (R32, R33). -/
abbrev State.ErrWf (s : State) : Prop :=
  (s.flt = true ↔ s.err ≠ 0) ∧ s.err.toNat ≤ 4

/-- A response with an error code has data 0, and the core is FAULTED (R85, R252). A command that stays in
flight is one that passed its checks, and there is no response while it does (R83, R214). -/
abbrev State.PortWf (s : State) : Prop :=
  (∀ r ∈ s.rsp, r.code ≠ .ok → r.data = 0 ∧ s.flt = true) ∧
    (s.busy = true → s.rsp = none ∧ s.cfg = true ∧ s.flt = false)

/-- What holds of every state of a run from reset. -/
abbrev State.Inv (s : State) : Prop :=
  (s.cfg = true → s.SessionWf) ∧ (s.cfg = false → s.NoSessionWf) ∧ s.ErrWf ∧ s.PortWf

/-- A session exists, its counters are well-formed, and the core is not FAULTED: every session command
passes its checks up to its own (R215). -/
abbrev State.InSession (s : State) : Prop :=
  s.flt = false ∧ s.cfg = true ∧ s.SessionWf

/-- Two states that differ at most in alphabet entries at or above alen (R34). -/
abbrev AgreeOnAlphabet (s t : State) : Prop :=
  t = { s with alpha := t.alpha } ∧ ∀ j, j < s.alen.toNat → s.alpha[j]? = t.alpha[j]?

/-- An alphabet without duplicate symbols (R169). -/
abbrev State.DistinctSymbols (s : State) : Prop :=
  ∀ i j, i < s.alen.toNat → j < s.alen.toNat → s.alpha[i]? = s.alpha[j]? → i = j

/-! ### The rejection loop -/

/-- `DrawKey(L)` without a bound (R164): from `s`, after any number of discarded draws, the key `k` is
accepted and leaves `t`. -/
inductive DrawsKey (L : Nat) : State → Byte → State → Prop where
  | accept {s : State} {k : Byte} {t : State} (h : squeezeByte s = .ok (k, t)) (hk : k.toNat < L) :
      DrawsKey L s k t
  | discard {s : State} {x : Byte} {u : State} {k : Byte} {t : State} (h : squeezeByte s = .ok (x, u))
      (hx : ¬ x.toNat < L) (hr : DrawsKey L u k t) : DrawsKey L s k t

/-! ### Responses -/

/-- The OK response with no data (R85). -/
def okNone : Response := ⟨.ok, 0⟩

/-- The OK response with one byte (R85). -/
def okByte (b : Byte) : Response := ⟨.ok, b.setWidth 64⟩

/-! ### The generating rules of the constant tables (R113) -/

/-- Set entry `i` of a table of 25 offsets. -/
def setOffset (T : Vector Nat 25) (i : Fin 25) (v : Nat) : Vector Nat 25 := T.set i v

/-- The rho walk from (x, y) for `n` values of t, starting at `t` (R113). -/
def rhoWalk : (n t : Nat) → (x y : Fin 5) → Vector Nat 25 → Vector Nat 25
  | 0, _, _, _, T => T
  | n + 1, t, x, y, T =>
    rhoWalk n (t + 1) y (2 * x + 3 * y) (setOffset T (laneIndex x y) ((t + 1) * (t + 2) / 2 % 64))

/-- The rho table that R113 generates. -/
def generatedRho : Vector Nat 25 := (rhoWalk 24 0 1 0 (Vector.replicate 25 0)).set 0 0

/-- One step of the LFSR x^8 + x^6 + x^5 + x^4 + 1 (R113). -/
def lfsrStep (v : Nat) : Nat :=
  if v < 128 then 2 * v else (2 * v) ^^^ 0x171

/-- `rc(t)`: bit 0 of the LFSR after t steps from state 1 (R113). -/
def lfsrBit (t : Nat) : Bool := ((Nat.repeat lfsrStep t 1) % 2) == 1

/-- The round constant that R113 generates: bit `2^j - 1` is `rc(j + 7i)`, j = 0 to 6. -/
def generatedRoundConstant (i : Nat) : Word :=
  (List.range 7).foldl
    (fun v j => if lfsrBit (j + 7 * i) then v ||| (1#64 <<< (2 ^ j - 1)) else v) 0

end Sys2Proof.Machine
end

