-- ==== Sys2Proof/Certificates/Slice0/Obligations.lean ====
section
/-! DEFINITION. The statements for the provers. -/

open Sys2Proof Sys2Proof.Machine

/-! ### Encoding -/

/-- Decoding the word of a well-formed command gives the command back, with every operand value the encoding
admits (rests on R78, R80, R82). -/
def Obligations.DecodeOfEncodeIsTheCommand : Prop :=
  ∀ (b : Build) (i : Instr), i.wellFormed b = true → decode b (encode i) = .ok i

/-- The other direction: a word that decodes is the word of its command, and the command is well-formed. With
the first direction, every word is exactly one legal command or illegal (rests on R81, R82). -/
def Obligations.EncodeOfDecodeIsTheWord : Prop :=
  ∀ (b : Build) (w : Word) (i : Instr), decode b w = .ok i → encode i = w ∧ i.wellFormed b = true

/-- R80, row by row, for the build with the test port. -/
def Obligations.WordSpellsCommandByMatchAndMask : Prop :=
  ∀ w : Word,
    ((∃ r c f, decode ⟨true⟩ w = .ok (.init r c f)) ↔ w &&& 0xFFFFF800F800FF00 = 0x0100000000000000) ∧
    ((∃ e b, decode ⟨true⟩ w = .ok (.absorb e b)) ↔ w &&& 0xFFFFFFFFFFFFFE00 = 0x0200000000000000) ∧
    ((∃ e, decode ⟨true⟩ w = .ok (.squeeze e)) ↔ w &&& 0xFFFFFFFFFFFFFEFF = 0x0300000000000000) ∧
    ((∃ b, decode ⟨true⟩ w = .ok (.xor b)) ↔ w &&& 0xFFFFFFFFFFFFFF00 = 0x0400000000000000) ∧
    ((∃ d c, decode ⟨true⟩ w = .ok (.text d c)) ↔ w &&& 0xFFFFFFFE00000000 = 0x0500000000000000) ∧
    (decode ⟨true⟩ w = .ok .alphaClear ↔ w &&& 0xFFFFFFFFFFFFFFFF = 0x0600000000000000) ∧
    ((∃ c, decode ⟨true⟩ w = .ok (.alphaAppend c)) ↔ w &&& 0xFFFFFFFF00000000 = 0x0700000000000000) ∧
    (decode ⟨true⟩ w = .ok .status ↔ w &&& 0xFFFFFFFFFFFFFFFF = 0x0800000000000000) ∧
    (decode ⟨true⟩ w = .ok .keccakF ↔ w &&& 0xFFFFFFFFFFFFFFFF = 0x0900000000000000) ∧
    ((∃ idx, decode ⟨true⟩ w = .ok (.laneRead idx)) ↔
      w &&& 0xFFFFFFFFFFFFFFE0 = 0x0A00000000000000 ∧ w.toNat % 32 ≤ 24)

/-- R78: every field is an unsigned integer read straight from its bits. The fields are read here by
division and remainder of the word as a number. -/
def Obligations.OperandFieldsAreReadStraight : Prop :=
  ∀ (b : Build) (w : Word),
    (∀ r c f, decode b w = .ok (.init r c f) →
      r.toNat = w.toNat / 2 ^ 32 % 2 ^ 11 ∧ c.toNat = w.toNat / 2 ^ 16 % 2 ^ 11 ∧ f.toNat = w.toNat % 2 ^ 8) ∧
    (∀ e x, decode b w = .ok (.absorb e x) →
      (e = true ↔ w.toNat / 2 ^ 8 % 2 = 1) ∧ x.toNat = w.toNat % 2 ^ 8) ∧
    (∀ e, decode b w = .ok (.squeeze e) → (e = true ↔ w.toNat / 2 ^ 8 % 2 = 1)) ∧
    (∀ x, decode b w = .ok (.xor x) → x.toNat = w.toNat % 2 ^ 8) ∧
    (∀ d c, decode b w = .ok (.text d c) →
      (d = .decrypt ↔ w.toNat / 2 ^ 32 % 2 = 1) ∧ c.toNat = w.toNat % 2 ^ 32) ∧
    (∀ c, decode b w = .ok (.alphaAppend c) → c.toNat = w.toNat % 2 ^ 32) ∧
    (∀ idx, decode b w = .ok (.laneRead idx) → idx.toNat = w.toNat % 2 ^ 5)

/-- A core built without the test port decodes as one with it, except that KECCAK_F and LANE_READ are illegal
(rests on R77, R81, R82). R82 answers Illegal and no more: the reasons, `testPortAbsent` among them, and the
reason that a word breaking several clauses keeps are the model's choice (assumption log 10). -/
def Obligations.TestPortCommandsNeedTheTestPort : Prop :=
  ∀ w : Word,
    (∀ i, decode ⟨true⟩ w = .ok i → i.isTestPort = false → decode ⟨false⟩ w = .ok i) ∧
    (∀ i, decode ⟨true⟩ w = .ok i → i.isTestPort = true → decode ⟨false⟩ w = .error .testPortAbsent) ∧
    (∀ e, decode ⟨true⟩ w = .error e → decode ⟨false⟩ w = .error e)

/-- Words written out from the encoding rules decode to the commands they stand for (R88's examples, one
for each opcode). -/
def Obligations.WrittenOutWordsDecode : Prop :=
  decode ⟨true⟩ 0x010004400200001F = .ok (.init 1088 512 0x1F) ∧
  decode ⟨true⟩ 0x0200000000000074 = .ok (.absorb false 0x74) ∧
  decode ⟨true⟩ 0x0200000000000100 = .ok (.absorb true 0) ∧
  decode ⟨true⟩ 0x0300000000000100 = .ok (.squeeze true) ∧
  decode ⟨true⟩ 0x0400000000000068 = .ok (.xor 0x68) ∧
  decode ⟨true⟩ 0x0500000000000061 = .ok (.text .encrypt 0x61) ∧
  decode ⟨true⟩ 0x0500000100000061 = .ok (.text .decrypt 0x61) ∧
  decode ⟨true⟩ 0x0600000000000000 = .ok .alphaClear ∧
  decode ⟨true⟩ 0x0700000000000020 = .ok (.alphaAppend 0x20) ∧
  decode ⟨true⟩ 0x0800000000000000 = .ok .status ∧
  decode ⟨true⟩ 0x0900000000000000 = .ok .keccakF ∧
  decode ⟨true⟩ 0x0A00000000000018 = .ok (.laneRead 24)

/-- The assembler writes the word of a line whose operands fit, as a number, and refuses any other line (rests
on R88). It never truncates. A line without operands has its one word. -/
def Obligations.AssemblerEncodesOrRefuses : Prop :=
  (∀ r c f : Nat, (assemble (.init r c f)).map BitVec.toNat =
    if r < 2048 ∧ c < 2048 ∧ f < 256 then some (2 ^ 56 + r * 2 ^ 32 + c * 2 ^ 16 + f) else none) ∧
  (∀ b : Nat, (assemble (.absorb b)).map BitVec.toNat = if b < 256 then some (2 * 2 ^ 56 + b) else none) ∧
  (∀ b : Nat, (assemble (.xor b)).map BitVec.toNat = if b < 256 then some (4 * 2 ^ 56 + b) else none) ∧
  (∀ c : Nat, (assemble (.textEnc c)).map BitVec.toNat =
    if c < 2 ^ 32 then some (5 * 2 ^ 56 + c) else none) ∧
  (∀ c : Nat, (assemble (.textDec c)).map BitVec.toNat =
    if c < 2 ^ 32 then some (5 * 2 ^ 56 + 2 ^ 32 + c) else none) ∧
  (∀ c : Nat, (assemble (.alphaAppend c)).map BitVec.toNat =
    if c < 2 ^ 32 then some (7 * 2 ^ 56 + c) else none) ∧
  (∀ i : Nat, (assemble (.laneRead i)).map BitVec.toNat = if i ≤ 24 then some (10 * 2 ^ 56 + i) else none) ∧
  assemble .absorbE = some 0x0200000000000100 ∧ assemble .squeeze = some 0x0300000000000000 ∧
  assemble .squeezeE = some 0x0300000000000100 ∧ assemble .alphaClear = some 0x0600000000000000 ∧
  assemble .status = some 0x0800000000000000 ∧ assemble .keccakF = some 0x0900000000000000

/-! ### The permutation -/

/-- Theta (R102), with the parities as sums over a column. -/
def Obligations.ThetaXorsColumnParities : Prop :=
  ∀ (A : Lanes) (x y : Fin 5),
    let C := fun u : Fin 5 => laneAt A u 0 ^^^ laneAt A u 1 ^^^ laneAt A u 2 ^^^ laneAt A u 3 ^^^ laneAt A u 4
    laneAt (thetaStep A) x y = laneAt A x y ^^^ (C (x - 1) ^^^ (C (x + 1)).rotateLeft 1)

/-- Pi moves lane (x, y) to (y, 2x + 3y), a bijection of the 25 positions (R105). -/
def Obligations.PiMovesEveryLane : Prop :=
  (∀ (A : Lanes) (x y : Fin 5), laneAt (piStep A) y (2 * x + 3 * y) = laneAt A x y) ∧
  Function.Bijective (fun p : Fin 5 × Fin 5 => (p.2, 2 * p.1 + 3 * p.2))

/-- Rho and then pi is one relocating pass: source lane i goes, rotated by its offset of R104, to its
destination of R106 (rests on R104, R106, R111). -/
def Obligations.RhoThenPiIsOneRelocatingPass : Prop :=
  ∀ (A : Lanes) (i : Fin 25),
    let dest : Vector (Fin 25) 25 :=
      #v[0, 10, 20, 5, 15, 16, 1, 11, 21, 6, 7, 17, 2, 12, 22, 23, 8, 18, 3, 13, 14, 24, 9, 19, 4]
    let offset : Vector Nat 25 :=
      #v[0, 1, 62, 28, 27, 36, 44, 6, 55, 20, 3, 10, 43, 25, 39, 41, 45, 15, 21, 8, 18, 2, 61, 56, 14]
    (piStep (rhoStep A))[dest[i]] = A[i].rotateLeft offset[i]

/-- Chi works row by row on the input lanes (R107), bit by bit. -/
def Obligations.ChiCombinesInputLanesOfARow : Prop :=
  ∀ (A : Lanes) (x y : Fin 5) (k : Nat), k < 64 →
    (laneAt (chiStep A) x y).getLsbD k =
      ((laneAt A x y).getLsbD k ^^ (!(laneAt A (x + 1) y).getLsbD k && (laneAt A (x + 2) y).getLsbD k))

/-- Iota changes lane 0 only (R108). -/
def Obligations.IotaChangesLaneZeroOnly : Prop :=
  ∀ (A : Lanes) (i : Fin 24) (j : Fin 25),
    (iotaStep A i)[j] = if j = 0 then A[0] ^^^ roundConstants[i] else A[j]

/-- The round structure (R101): rounds 0 to 23 in order, each theta, rho, pi, chi, iota. -/
def Obligations.KeccakRunsTwentyFourRounds : Prop :=
  ∀ A : Lanes,
    keccakF A = (List.range 24).foldl
      (fun B i => iotaStep (chiStep (piStep (rhoStep (thetaStep B)))) (Fin.ofNat 24 i)) A

/-- The generating rules reproduce both constant tables (R113). -/
def Obligations.GeneratingRulesReproduceTheTables : Prop :=
  generatedRho = rhoOffsets ∧ ∀ i : Fin 24, generatedRoundConstant i.val = roundConstants[i]

/-! ### The state byte view -/

/-- Byte 8k + j is bits 8j + 7 down to 8j of lane k, and the lane is the sum of its eight bytes (R52). -/
def Obligations.LaneIsTheSumOfItsBytes : Prop :=
  ∀ (s : State) (k : Fin 25), ∃ b : Fin 8 → Byte,
    (∀ j : Fin 8, stateByte (8 * k.val + j.val) s = .ok (b j)) ∧
    s.lane[k].toNat = ∑ j : Fin 8, (b j).toNat * 2 ^ (8 * j.val)

/-- The view has the addresses 0 to 199 and no other, and a byte XOR changes the byte at its address, no
other byte, and no other state (rests on R13, R50, R52). That a read or a byte XOR at an address the view does
not have is the fault `noStateByte` is the model's choice (assumption log 5): the rules name no fault. -/
def Obligations.XorByteChangesOneByteOfTheView : Prop :=
  (∀ (s : State) (a : Nat), (∃ x, stateByte a s = .ok x) ↔ a < 200) ∧
  (∀ (s : State) (i : Nat) (v : Byte), i < 200 →
    ∃ L : Lanes, stateXorByte i v s = .ok { s with lane := L } ∧
      ∀ a, stateByte a { s with lane := L } =
        if a = i then (stateByte a s).map (· ^^^ v) else stateByte a s) ∧
  (∀ (s : State) (i : Nat) (v : Byte), 200 ≤ i → stateXorByte i v s = .error .noStateByte)

/-! ### INIT -/

/-- INIT on a core that is not FAULTED, with every operand value: the new session, or ERR_CONFIG and nothing
else (rests on R131, R213). -/
def Obligations.InitStartsASessionOrFaults : Prop :=
  ∀ (s : State) (rate cap : BitVec 11) (sfx : Byte), s.flt = false →
    exec (.init rate cap sfx) s = .next
      (if rate.toNat + cap.toNat = 1600 ∧ rate.toNat % 8 = 0 ∧ rate.toNat ≠ 0 then
        { s with
          lane := Vector.replicate 25 0
          rateBytes := BitVec.ofNat 8 (rate.toNat / 8)
          suffix := sfx
          absorbed := 0
          squeezed := BitVec.ofNat 8 (rate.toNat / 8)
          cfg := true
          warn := false
          rsp := some ⟨.ok, 0⟩ }
      else { s with flt := true, err := 3, rsp := some ⟨.config, 0⟩ })

/-- R132: the 200 legal configurations, and the shipped one. -/
def Obligations.InitSucceedsForTwoHundredPairs : Prop :=
  (∀ (s : State) (rate cap : BitVec 11) (sfx : Byte), s.flt = false →
    ((∃ t, exec (.init rate cap sfx) s = .next t ∧ t.rsp = some ⟨.ok, 0⟩) ↔
      ∃ k, 1 ≤ k ∧ k ≤ 200 ∧ rate.toNat = 8 * k ∧ cap.toNat = 1600 - 8 * k)) ∧
  (∀ s : State, s.flt = false → ∃ t,
    exec (.init Config.shippedRate Config.shippedCapacity Config.shippedSuffix) s = .next t ∧
    t.rsp = some ⟨.ok, 0⟩ ∧ t.rateBytes.toNat = 136 ∧ 200 - t.rateBytes.toNat = 64 ∧ t.suffix = 0x1F)

/-! ### ABSORB -/

/-- ABSORB of a byte in phase ABSORB (rests on R133, R134, R144): the byte at `absorbed` is XORed, every other
byte of the view is kept up to the permutation that ends a block, and nothing else changes but `absorbed`. -/
def Obligations.AbsorbXorsOneByteAndPermutesAtBlockEnd : Prop :=
  ∀ (s : State) (b : Byte), s.InSession → s.phase = .absorb →
    ∃ L : Lanes,
      (∀ a, stateByte a { s with lane := L } =
        if a = s.absorbed.toNat then (stateByte a s).map (· ^^^ b) else stateByte a s) ∧
      exec (.absorb false b) s = .next
        (if s.absorbed.toNat + 1 = s.rateBytes.toNat then
          { s with lane := keccakF L, absorbed := 0, rsp := some ⟨.ok, 0⟩ }
        else { s with lane := L, absorbed := s.absorbed + 1, rsp := some ⟨.ok, 0⟩ })

/-- ABSORB.E in phase ABSORB changes nothing, whatever its ignored byte (rests on R135). -/
def Obligations.EmptyAbsorbChangesNothing : Prop :=
  ∀ (s : State) (b : Byte), s.flt = false → s.cfg = true → s.phase = .absorb →
    exec (.absorb true b) s = .next { s with rsp := some ⟨.ok, 0⟩ }

/-- R147: the ordering error, and that no other command has one. SQUEEZE, XOR and TEXT answer OK in both phases;
they move the phase to SQUEEZE when they draw, and a TEXT that draws nothing leaves the phase. -/
def Obligations.OnlyAbsorbHasAPhasePrecondition : Prop :=
  (∀ (s : State) (e : Bool) (b : Byte), s.flt = false → s.cfg = true → s.phase = .squeeze →
    exec (.absorb e b) s = .next { s with flt := true, err := 4, rsp := some ⟨.order, 0⟩ }) ∧
  (∀ (s t : State) (i : Instr) (x : Word), s.rsp = none → exec i s = .next t → t.rsp = some ⟨.order, x⟩ →
    ∃ e b, i = .absorb e b) ∧
  (∀ (s : State) (b : Byte), s.InSession →
    (∃ t x, exec (.squeeze false) s = .next t ∧ t.rsp = some ⟨.ok, x⟩ ∧ t.phase = .squeeze) ∧
    (∃ t x, exec (.xor b) s = .next t ∧ t.rsp = some ⟨.ok, x⟩ ∧ t.phase = .squeeze)) ∧
  (∀ (s u : State) (d : Direction) (c : CharCode) (k : Byte), s.InSession → lookup c s ≠ none →
    DrawsKey s.alen.toNat s k u →
    ∃ t x, exec (.text d c) s = .next t ∧ t.rsp = some ⟨.ok, x⟩ ∧ t.phase = .squeeze) ∧
  (∀ (s : State) (d : Direction) (c : CharCode), s.InSession → lookup c s = none →
    ∃ t x, exec (.text d c) s = .next t ∧ t.rsp = some ⟨.ok, x⟩ ∧ t.phase = s.phase)

/-- Absorbing exactly one block from its start (rests on R134, R144, R145, R193): every byte of the block is
XORed in place, one permutation runs, in the last command, and `absorbed` is 0 again. That the host has taken
the last response at the end of a sequence is the model's reading (assumption log 11; 12 where a
TEXT is in flight). -/
def Obligations.AbsorbingABlockPermutesOnce : Prop :=
  ∀ (s : State) (bs : List Byte), s.InSession → s.phase = .absorb → s.absorbed = 0 →
    bs.length = s.rateBytes.toNat →
    ∃ L : Lanes,
      (∀ a, stateByte a { s with lane := L } =
        match bs[a]? with
        | some b => (stateByte a s).map (· ^^^ b)
        | none => stateByte a s) ∧
      runCommands (apiAbsorb bs) s =
        some (List.replicate bs.length okNone, { s with lane := keccakF L, absorbed := 0, rsp := none })

/-! ### SQUEEZE -/

/-- SQUEEZE.E (R136, R142): in phase ABSORB it is exactly Pad; in phase SQUEEZE it changes nothing. P holds
the suffix, M is P or, in the two-permutation case, P permuted, and Q holds the terminator. -/
def Obligations.EmptySqueezePadsOnceOrDoesNothing : Prop :=
  (∀ s : State, s.InSession → s.phase = .absorb →
    ∃ P M Q : Lanes,
      (∀ a, stateByte a { s with lane := P } =
        if a = s.absorbed.toNat then (stateByte a s).map (· ^^^ s.suffix) else stateByte a s) ∧
      (M = if s.suffix.getLsbD 7 = true ∧ s.absorbed.toNat + 1 = s.rateBytes.toNat then keccakF P else P) ∧
      (∀ a, stateByte a { s with lane := Q } =
        if a = s.rateBytes.toNat - 1 then (stateByte a { s with lane := M }).map (· ^^^ 0x80)
        else stateByte a { s with lane := M }) ∧
      exec (.squeeze true) s = .next { s with lane := keccakF Q, squeezed := 0, rsp := some ⟨.ok, 0⟩ }) ∧
  (∀ s : State, s.flt = false → s.cfg = true → s.phase = .squeeze →
    exec (.squeeze true) s = .next { s with rsp := some ⟨.ok, 0⟩ })

/-- SQUEEZE in phase SQUEEZE (rests on R140, R141, R144): the byte at `squeezed` is returned, the counter
advances, and at the block's end the permutation runs in the same command. -/
def Obligations.SqueezeReadsTheNextByte : Prop :=
  ∀ s : State, s.InSession → s.phase = .squeeze →
    ∃ k : Byte, stateByte s.squeezed.toNat s = .ok k ∧
      exec (.squeeze false) s = .next
        (if s.squeezed.toNat + 1 = s.rateBytes.toNat then
          { s with lane := keccakF s.lane, squeezed := 0, rsp := some (okByte k) }
        else { s with squeezed := s.squeezed + 1, rsp := some (okByte k) })

/-- The first keystream command of a session is SQUEEZE.E, which pads, and then itself (rests on R141, R142,
R160, R167). -/
def Obligations.FirstKeystreamCommandPadsFirst : Prop :=
  ∀ s : State, s.InSession → s.phase = .absorb →
    ∃ t, exec (.squeeze true) s = .next t ∧ t.InSession ∧ t.phase = .squeeze ∧
      exec (.squeeze false) s = exec (.squeeze false) t ∧
      (∀ b, exec (.xor b) s = exec (.xor b) t) ∧
      (∀ d c u, lookup c s ≠ none → s.busy = false → exec (.text d c) s = .next u → u.busy = false →
        exec (.text d c) t = .next u)

/-- Squeezing a whole block from its start returns the bytes of the block in order and permutes once, in the
last command; squeeze(0) returns no byte and leaves phase SQUEEZE (rests on R141 to R144, R194). That the host
has taken the last response at the end of a sequence is the model's reading (assumption log 11; 12 where a
TEXT is in flight). -/
def Obligations.SqueezingABlockReturnsItsBytes : Prop :=
  (∀ s : State, s.InSession → s.phase = .squeeze → s.squeezed = 0 →
    ∃ bs : List Byte, bs.length = s.rateBytes.toNat ∧
      (∀ a b, bs[a]? = some b → stateByte a s = .ok b) ∧
      runCommands (apiSqueeze s.rateBytes.toNat) s =
        some (bs.map okByte, { s with lane := keccakF s.lane, rsp := none }) ∧
      callSqueeze s.rateBytes.toNat s =
        some (.returned bs, { s with lane := keccakF s.lane, rsp := none })) ∧
  (∀ s : State, s.InSession →
    ∃ t, callSqueeze 0 s = some (.returned [], t) ∧ t.phase = .squeeze)

/-! ### XOR -/

/-- XOR is SQUEEZE with the input byte XORed onto the keystream byte (rests on R161). -/
def Obligations.XorIsSqueezeWithTheInputXored : Prop :=
  ∀ s : State, s.InSession →
    ∃ (k : Byte) (t : State),
      exec (.squeeze false) s = .next { t with rsp := some (okByte k) } ∧
      ∀ b, exec (.xor b) s = .next { t with rsp := some (okByte (b ^^^ k)) }

/-- Binary mode is self-inverse on every input, from equal session states, and keeps the length (rests on
R162), and so is the call `binary_cipher` on every core that is not FAULTED (rests on R162, R196). How a host
issues a sequence is the model's reading (assumption log 11; 12 where a
TEXT is in flight). -/
def Obligations.BinaryModeIsSelfInverse : Prop :=
  (∀ (s : State) (bs : List Byte), s.InSession →
    ∃ (cs : List Byte) (t : State), cs.length = bs.length ∧
      runCommands (bs.map .xor) s = some (cs.map okByte, t) ∧
      runCommands (cs.map .xor) s = some (bs.map okByte, t)) ∧
  (∀ (s : State) (password input : List Byte), s.flt = false →
    ∃ (output : List Byte) (t : State), output.length = input.length ∧
      callBinaryCipher password input s = some (.returned output, t) ∧
      callBinaryCipher password output s = some (.returned input, t))

/-! ### TEXT -/

/-- Lookup finds the last matching index below alen (R163), and no index when alen is 0. -/
def Obligations.LookupFindsTheLastMatch : Prop :=
  (∀ (s : State) (c : CharCode) (i : Nat),
    lookup c s = some i ↔
      i < s.alen.toNat ∧ s.alpha[i]? = some c ∧ ∀ j, i < j → j < s.alen.toNat → s.alpha[j]? ≠ some c) ∧
  (∀ (s : State) (c : CharCode), s.alen = 0 → lookup c s = none)

/-- The modular map (R166): both results are below L, the decrypting one is the non-negative remainder of the
difference, and the intermediate sum of an 8-bit L fits 9 bits. -/
def Obligations.ModularMapStaysBelowLength : Prop :=
  ∀ L i k : Nat, i < L → k < L →
    shiftIndex .encrypt L i k = (i + k) % L ∧ shiftIndex .encrypt L i k < L ∧
    (shiftIndex .decrypt L i k : Int) = ((i : Int) - k) % L ∧ shiftIndex .decrypt L i k < L ∧
    (L ≤ 255 → i + k ≤ 508)

/-- A character outside the alphabet passes through in both directions, sets WARN, and draws nothing (rests
on R167, R168). -/
def Obligations.ForeignCharacterPassesThrough : Prop :=
  ∀ (s : State) (d : Direction) (c : CharCode), s.flt = false → s.cfg = true →
    (∀ j, j < s.alen.toNat → s.alpha[j]? ≠ some c) →
    exec (.text d c) s =
      .next { s with warn := true, rsp := some ⟨.ok, BitVec.ofNat 64 (2 ^ 32 + c.toNat)⟩ }

/-- A character of the alphabet, with the rejection loop of R164 without any bound (rests on R163, R164,
R166, R167): if the loop accepts the key k and leaves u, TEXT answers with the mapped symbol, and the state
is u but for the response. -/
def Obligations.TextFollowsTheUnboundedRejectionLoop : Prop :=
  ∀ (s u : State) (d : Direction) (c : CharCode) (i : Nat) (k : Byte),
    s.flt = false → s.cfg = true → lookup c s = some i → DrawsKey s.alen.toNat s k u →
    ∃ (j : Nat) (c' : CharCode), j < s.alen.toNat ∧ s.alpha[j]? = some c' ∧
      (match d with
        | .encrypt => j = (i + k.toNat) % s.alen.toNat
        | .decrypt => (j + k.toNat) % s.alen.toNat = i) ∧
      u = { s with lane := u.lane, squeezed := u.squeezed } ∧
      exec (.text d c) s = .next { u with rsp := some ⟨.ok, c'.setWidth 64⟩ }

/-- The key is the first keystream byte below L in stream order, and the draws are the bytes that SQUEEZE
would return (rests on R164, R165). How a host issues the SQUEEZEs is the model's reading (assumption log 11; 12 where a
TEXT is in flight). -/
def Obligations.DrawnKeyIsTheFirstByteBelowLength : Prop :=
  ∀ (L : Nat) (s u : State) (k : Byte), s.InSession → DrawsKey L s k u →
    ∃ xs : List Byte, (∀ x ∈ xs, L ≤ x.toNat) ∧ k.toNat < L ∧
      runCommands (apiSqueeze (xs.length + 1)) s = some ((xs ++ [k]).map okByte, { u with rsp := none })

/-- TEXT in a session, on an empty response port, neither faults nor is refused. It answers OK, or its loop has
no accepted draw at all and the command stays in flight with no response. That a command without an end is a
`busy` core is the model's choice (assumption log 3; rests on R164, R214, R249). -/
def Obligations.TextAnswersOrStaysInFlight : Prop :=
  ∀ (s : State) (d : Direction) (c : CharCode), s.InSession → s.rsp = none →
    ∃ t, exec (.text d c) s = .next t ∧
      ((∃ x, t.rsp = some ⟨.ok, x⟩) ∨
        (t.rsp = none ∧ t = { s with busy := true } ∧ ∀ k u, ¬ DrawsKey s.alen.toNat s k u))

/-- Textual mode is self-inverse on every text, foreign characters among it, from equal session states, for an
alphabet without duplicate symbols (rests on R169). So is the call `textual_cipher`, whose mismatch flag says
whether a character of the input is foreign (rests on R168, R169, R198). How a host issues a sequence is the
model's reading (assumption log 11; 12 where a
TEXT is in flight). -/
def Obligations.TextualModeIsSelfInverse : Prop :=
  (∀ (s t : State) (cs : List CharCode) (rs : List Response), s.InSession → s.DistinctSymbols →
    runCommands (cs.map (.text .encrypt)) s = some (rs, t) →
    ∃ rs' : List Response,
      runCommands ((rs.map Response.char).map (.text .decrypt)) s = some (rs', t) ∧
      rs'.map Response.char = cs) ∧
  (∀ (s t : State) (password : List Byte) (input output alphabet : List CharCode) (mismatch : Bool),
    alphabet.Nodup →
    callTextualCipher password input alphabet .encrypt s = some (.returned (output, mismatch), t) →
    callTextualCipher password output alphabet .decrypt s = some (.returned (input, mismatch), t) ∧
    output.length = input.length ∧ (mismatch = true ↔ ∃ c ∈ input, c ∉ alphabet))

/-! ### The alphabet -/

/-- ALPHA_CLEAR sets alen to 0 and changes nothing else, with or without a session (rests on R170). -/
def Obligations.AlphaClearEmptiesTheAlphabet : Prop :=
  ∀ s : State, s.flt = false →
    exec .alphaClear s = .next { s with alen := 0, rsp := some ⟨.ok, 0⟩ }

/-- ALPHA_APPEND writes the entry at alen, whatever the symbol, and the 256th symbol is ERR_CONFIG with nothing
written (rests on R171, R172, R213). -/
def Obligations.AlphaAppendAddsOneSymbolOrFaults : Prop :=
  ∀ (s : State) (c : CharCode), s.flt = false →
    (s.alen ≠ 255 → ∃ T : Alphabet,
      (∀ j : Nat, T[j]? = if j = s.alen.toNat then some c else s.alpha[j]?) ∧
      exec (.alphaAppend c) s = .next { s with alpha := T, alen := s.alen + 1, rsp := some ⟨.ok, 0⟩ }) ∧
    (s.alen = 255 →
      exec (.alphaAppend c) s = .next { s with flt := true, err := 3, rsp := some ⟨.config, 0⟩ })

/-- Loading an alphabet gives each symbol its position as index; a 256th symbol ends the load with ERR_CONFIG
(rests on R171, R192, R197). How a host issues the sequence is the model's reading (assumption log 11; 12 where a
TEXT is in flight). -/
def Obligations.LoadedAlphabetIsTheSymbolList : Prop :=
  ∀ (s : State) (cs : List CharCode), s.flt = false →
    (cs.length ≤ 255 → ∃ T : Alphabet, (∀ j, j < cs.length → T[j]? = cs[j]?) ∧
      runCommands (apiLoadAlphabet cs) s =
        some (List.replicate (cs.length + 1) okNone,
          { s with alpha := T, alen := BitVec.ofNat 8 cs.length, rsp := none })) ∧
    (255 < cs.length → ∃ T : Alphabet, (∀ j, j < 255 → T[j]? = cs[j]?) ∧
      runCommands (apiLoadAlphabet cs) s =
        some (List.replicate 256 okNone ++ [⟨.config, 0⟩],
          { s with alpha := T, alen := 255, flt := true, err := 3, rsp := none }))

/-- No command reads an alphabet entry at or above alen: two states that differ only there give the same
response and the same state but for such entries, whatever the command (rests on R34). -/
def Obligations.UnusedAlphabetEntriesAreUnobservable : Prop :=
  ∀ (i : Instr) (s1 s2 t1 : State), AgreeOnAlphabet s1 s2 → exec i s1 = .next t1 →
    ∃ t2, exec i s2 = .next t2 ∧ AgreeOnAlphabet t1 t2

/-! ### STATUS, LANE_READ, KECCAK_F -/

/-- STATUS answers in every state, FAULTED or not, changes nothing, and its word holds each field at its bits
(rests on R40, R190). -/
def Obligations.StatusReportsEveryField : Prop :=
  ∀ s : State, ∃ w : Word,
    exec .status s = .next { s with rsp := some ⟨.ok, w⟩ } ∧
    w.getLsbD 0 = s.cfg ∧ (w.getLsbD 1 = true ↔ s.phase = .squeeze) ∧ w.getLsbD 2 = s.warn ∧
    w.getLsbD 3 = s.flt ∧ w.extractLsb' 4 4 = s.err ∧ w.extractLsb' 8 8 = s.absorbed ∧
    w.extractLsb' 16 8 = s.squeezed ∧ w.extractLsb' 24 8 = s.rateBytes ∧ w.extractLsb' 32 8 = s.suffix ∧
    w.extractLsb' 40 8 = s.alen ∧ w.extractLsb' 48 16 = 0

/-- LANE_READ answers with the lane and changes nothing, at every legal index; KECCAK_F permutes the lanes and
changes nothing else, in either phase (rests on R114, R191). -/
def Obligations.TestPortCommandsReadAndPermuteLanes : Prop :=
  ∀ s : State, s.flt = false → s.cfg = true → s.build.testPort = true →
    (∀ (idx : BitVec 5) (h : idx.toNat < 25),
      exec (.laneRead idx) s = .next { s with rsp := some ⟨.ok, s.lane[idx.toNat]⟩ }) ∧
    exec .keccakF s = .next { s with lane := keccakF s.lane, rsp := some ⟨.ok, 0⟩ }

/-! ### Errors -/

/-- While FLT = 1 every command but STATUS gets ERR_FAULTED and changes no state (rests on R215, R216; the
illegal words are in `IllegalWordIsFatal`). The 4-bit value of each code is R84's, row by row, and 6 to 15 are
never produced. -/
def Obligations.FaultedCoreRefusesEverythingButStatus : Prop :=
  (∀ (s : State) (i : Instr), s.flt = true → i ≠ .status →
    exec i s = .next { s with rsp := some ⟨.faulted, 0⟩ }) ∧
  RspCode.ok.bits = 0 ∧ RspCode.illegal.bits = 1 ∧ RspCode.noSession.bits = 2 ∧ RspCode.config.bits = 3 ∧
  RspCode.order.bits = 4 ∧ RspCode.faulted.bits = 5 ∧ ∀ code : RspCode, code.bits.toNat < 6

/-- The rest of the prologue's order (rests on R211, R215): an ill-formed command is ERR_ILLEGAL with or without
a session; a well-formed session command without a session is ERR_NOSESSION. -/
def Obligations.PrologueOrdersTheErrors : Prop :=
  (∀ (s : State) (i : Instr), s.flt = false → i.wellFormed s.build = false →
    exec i s = .next { s with flt := true, err := 1, rsp := some ⟨.illegal, 0⟩ }) ∧
  (∀ (s : State) (i : Instr), s.flt = false → s.cfg = false → i.wellFormed s.build = true →
    (∃ e b, i = .absorb e b) ∨ (∃ e, i = .squeeze e) ∨ (∃ b, i = .xor b) ∨ (∃ d c, i = .text d c) ∨
      i = .keccakF ∨ (∃ idx, i = .laneRead idx) →
    exec i s = .next { s with flt := true, err := 2, rsp := some ⟨.noSession, 0⟩ })

/-- An illegal word at the port (rests on R81, R213, R216): ERR_ILLEGAL, or ERR_FAULTED on a FAULTED core. The
values of the codes are in `FaultedCoreRefusesEverythingButStatus`. -/
def Obligations.IllegalWordIsFatal : Prop :=
  ∀ (s : State) (w : Word) (rest : List PortInput) (e : Illegal),
    s.inputs = .command w :: rest → s.cmdReady = true → decode s.build w = .error e →
    step s = .next
      (if s.flt then { s with inputs := rest, rsp := some ⟨.faulted, 0⟩ }
      else { s with inputs := rest, flt := true, err := 1, rsp := some ⟨.illegal, 0⟩ })

/-- A failing command changes nothing but FLT and ERR, and on a FAULTED core nothing at all; its data is 0
(rests on R85, R213, R214, R216). -/
def Obligations.FailingCommandChangesOnlyTheFault : Prop :=
  ∀ (s t : State) (i : Instr) (code : RspCode) (x : Word), s.rsp = none → exec i s = .next t →
    t.rsp = some ⟨code, x⟩ → code ≠ .ok →
    x = 0 ∧
    ((s.flt = false ∧ code ≠ .faulted ∧
        t = { s with flt := true, err := code.bits, rsp := some ⟨code, 0⟩ }) ∨
      (s.flt = true ∧ code = .faulted ∧ t = { s with rsp := some ⟨.faulted, 0⟩ }))

/-- Only reset clears FLT and ERR (R217): no other action of the host, no command among them, changes either on
a FAULTED core, and reset clears both. -/
def Obligations.OnlyResetLeavesFaulted : Prop :=
  (∀ s t : State, s.flt = true → s.inputs.head? ≠ some .reset → step s = .next t →
    t.flt = true ∧ t.err = s.err) ∧
  (∀ (s : State) (rest : List PortInput), s.inputs = .reset :: rest →
    ∃ t, step s = .next t ∧ t.flt = false ∧ t.err = 0)

/-- Every command that is accepted produces exactly one response, or is a TEXT whose loop never ends (rests on
R83, R249). That such a TEXT leaves the state as it is but for `busy` is the model's choice (assumption log
3). -/
def Obligations.EveryCommandAnswersOnce : Prop :=
  ∀ (s t : State) (i : Instr), s.rsp = none → exec i s = .next t →
    (∃ r, t.rsp = some r ∧ t.busy = s.busy) ∨
    (t = { s with busy := true } ∧ (∃ d c, i = .text d c) ∧ ∀ k u, ¬ DrawsKey s.alen.toNat s k u)

/-! ### The port, the step, reset -/

/-- A step runs the decoded command: on a ready port, the step takes the word from the host's actions and is
exec of the command it decodes to (rests on R18, R87). -/
def Obligations.StepRunsTheDecodedCommand : Prop :=
  ∀ (s : State) (w : Word) (rest : List PortInput) (i : Instr),
    s.inputs = .command w :: rest → s.busy = false → s.rsp = none → decode s.build w = .ok i →
    step s = exec i { s with inputs := rest }

/-- With nothing at the port the core is idle; a command that the port does not accept waits; a response is
delivered when the host takes it (rests on R87, R227). -/
def Obligations.PortHoldsCommandsUntilReady : Prop :=
  (∀ s : State, s.inputs = [] → step s = .next s) ∧
  (∀ (s : State) (w : Word) (rest : List PortInput), s.inputs = .command w :: rest →
    s.busy = true ∨ s.rsp ≠ none → step s = .next s) ∧
  (∀ (s : State) (rest : List PortInput), s.inputs = .takeResponse :: rest →
    step s = .next { s with inputs := rest, rsp := none })

/-- Reset from any state, a command in flight among them (rests on R240). The build parameters are no state
(R42), and the host's next actions are the host's. -/
def Obligations.ResetActionRestoresTheResetState : Prop :=
  ∀ (s : State) (rest : List PortInput), s.inputs = .reset :: rest →
    step s = .next { State.reset with build := s.build, inputs := rest }

/-- The reset values, and the STATUS word at the port after reset (rests on R41, R241). -/
def Obligations.ResetValuesAreTheTable : Prop :=
  (∀ i : Fin 25, State.reset.lane[i] = 0) ∧ State.reset.cfg = false ∧ State.reset.rateBytes = 0 ∧
  State.reset.suffix = 0 ∧ State.reset.absorbed = 0 ∧ State.reset.squeezed = 0 ∧ State.reset.warn = false ∧
  State.reset.flt = false ∧ State.reset.err = 0 ∧ State.reset.alen = 27 ∧
  (∀ j : Fin 255, State.reset.alpha[j] =
    if j.val < 26 then BitVec.ofNat 32 (0x61 + j.val) else if j.val = 26 then 0x20 else 0) ∧
  step (State.reset.withFetchWord 64 0x0800000000000000) =
    .next { State.reset with rsp := some ⟨.ok, 0x00001B0000000000⟩ }

/-! ### What each command may change -/

/-- Only INIT writes CFG, rate_bytes and suffix; only INIT and ABSORB write absorbed (rests on R23 to R26,
R138). -/
def Obligations.OnlyInitWritesTheConfiguration : Prop :=
  ∀ (s t : State) (i : Instr), exec i s = .next t → (∀ r c f, i ≠ .init r c f) →
    t.cfg = s.cfg ∧ t.rateBytes = s.rateBytes ∧ t.suffix = s.suffix ∧
    ((∀ e b, i ≠ .absorb e b) → t.absorbed = s.absorbed)

/-- The alphabet is independent of the session: only ALPHA_CLEAR and ALPHA_APPEND change it (rests on R35,
R173). -/
def Obligations.OnlyAlphabetCommandsChangeTheAlphabet : Prop :=
  ∀ (s t : State) (i : Instr), exec i s = .next t → i ≠ .alphaClear → (∀ c, i ≠ .alphaAppend c) →
    t.alpha = s.alpha ∧ t.alen = s.alen

/-- WARN is sticky: only INIT clears it and only TEXT sets it (rests on R31). -/
def Obligations.WarnIsSticky : Prop :=
  ∀ (s t : State) (i : Instr), exec i s = .next t →
    (s.warn = true → t.warn = false → ∃ r c f, i = .init r c f) ∧
    (s.warn = false → t.warn = true → ∃ d c, i = .text d c)

/-- STATUS, LANE_READ and the alphabet commands keep the lanes and the two counters, and no command touches the
build (rests on R8, R22, R26, R27). That the host's next actions are a field of State, which no command touches,
is the model's choice (assumption log 1). The commands that do change lanes (R22), KECCAK_F among them, have
statements of their own. -/
def Obligations.ReadingAndAlphabetCommandsKeepTheSponge : Prop :=
  ∀ (s t : State) (i : Instr), exec i s = .next t →
    t.inputs = s.inputs ∧ t.build = s.build ∧
    (i = .alphaClear ∨ (∃ c, i = .alphaAppend c) ∨ i = .status ∨ (∃ idx, i = .laneRead idx) →
      t.lane = s.lane ∧ t.squeezed = s.squeezed ∧ t.absorbed = s.absorbed)

/-- The phase of a session moves from ABSORB to SQUEEZE only through a keystream command, and back only through
INIT (rests on R29, R130). -/
def Obligations.PhaseIsSingleOrdered : Prop :=
  ∀ (s t : State) (i : Instr), s.cfg = true → s.SessionWf → exec i s = .next t →
    (s.phase = .squeeze → t.phase = .absorb → ∃ r c f, i = .init r c f) ∧
    (s.phase = .absorb → t.phase = .squeeze →
      (∃ e, i = .squeeze e) ∨ (∃ b, i = .xor b) ∨ ∃ d c, i = .text d c)

/-! ### Invariants -/

/-- The invariant holds after reset. -/
def Obligations.InvariantHoldsAfterReset : Prop := State.reset.Inv

/-- Every step keeps the invariant: the session's counters, the state before a session, ERR and FLT, and the
port (rests on R24 to R29, R33, R85, R252). -/
def Obligations.StepKeepsTheInvariant : Prop :=
  ∀ s t : State, s.Inv → step s = .next t → t.Inv

/-- From a state with the invariant no step faults or is refused: a command that passes its checks cannot fail
later, and every byte the sponge addresses exists (rests on R53, R214). -/
def Obligations.InvariantStatesNeverStop : Prop :=
  ∀ s : State, s.Inv → ∃ t, step s = .next t

/-- Whatever the host does, for whatever build, no run from reset stops, and the invariant holds along it
(rests on R214, R216). -/
def Obligations.NoRunFromResetStops : Prop :=
  ∀ (k : Nat) (build : Build) (actions : List PortInput),
    ∃ t, core.run k { State.reset with build := build, inputs := actions } = .next t ∧ t.Inv
end

