-- ==== Sys2Proof/Laws/State.lean ====
section
/-! SUPPORT. One lemma per field per named update of the state, true by rfl, so that no proof unfolds a record
update. -/

namespace Sys2Proof.Machine

/-! ### respond -/

section
variable (code : RspCode) (data : Word) (s : State)

@[simp] theorem respond_lane : (respond code data s).lane = s.lane := rfl
@[simp] theorem respond_cfg : (respond code data s).cfg = s.cfg := rfl
@[simp] theorem respond_rateBytes : (respond code data s).rateBytes = s.rateBytes := rfl
@[simp] theorem respond_suffix : (respond code data s).suffix = s.suffix := rfl
@[simp] theorem respond_absorbed : (respond code data s).absorbed = s.absorbed := rfl
@[simp] theorem respond_squeezed : (respond code data s).squeezed = s.squeezed := rfl
@[simp] theorem respond_warn : (respond code data s).warn = s.warn := rfl
@[simp] theorem respond_flt : (respond code data s).flt = s.flt := rfl
@[simp] theorem respond_err : (respond code data s).err = s.err := rfl
@[simp] theorem respond_alpha : (respond code data s).alpha = s.alpha := rfl
@[simp] theorem respond_alen : (respond code data s).alen = s.alen := rfl
@[simp] theorem respond_build : (respond code data s).build = s.build := rfl
@[simp] theorem respond_inputs : (respond code data s).inputs = s.inputs := rfl
@[simp] theorem respond_busy : (respond code data s).busy = s.busy := rfl
@[simp] theorem respond_rsp : (respond code data s).rsp = some ⟨code, data⟩ := rfl

end

/-! ### fatal -/

section
variable (code : RspCode) (s : State)

@[simp] theorem fatal_lane : (fatal code s).lane = s.lane := rfl
@[simp] theorem fatal_cfg : (fatal code s).cfg = s.cfg := rfl
@[simp] theorem fatal_rateBytes : (fatal code s).rateBytes = s.rateBytes := rfl
@[simp] theorem fatal_suffix : (fatal code s).suffix = s.suffix := rfl
@[simp] theorem fatal_absorbed : (fatal code s).absorbed = s.absorbed := rfl
@[simp] theorem fatal_squeezed : (fatal code s).squeezed = s.squeezed := rfl
@[simp] theorem fatal_warn : (fatal code s).warn = s.warn := rfl
@[simp] theorem fatal_flt : (fatal code s).flt = true := rfl
@[simp] theorem fatal_err : (fatal code s).err = code.bits := rfl
@[simp] theorem fatal_alpha : (fatal code s).alpha = s.alpha := rfl
@[simp] theorem fatal_alen : (fatal code s).alen = s.alen := rfl
@[simp] theorem fatal_build : (fatal code s).build = s.build := rfl
@[simp] theorem fatal_inputs : (fatal code s).inputs = s.inputs := rfl
@[simp] theorem fatal_busy : (fatal code s).busy = s.busy := rfl
@[simp] theorem fatal_rsp : (fatal code s).rsp = some ⟨code, 0⟩ := rfl

end

/-! ### permute -/

section
variable  (s : State)

@[simp] theorem permute_lane : (permute s).lane = keccakF s.lane := rfl
@[simp] theorem permute_cfg : (permute s).cfg = s.cfg := rfl
@[simp] theorem permute_rateBytes : (permute s).rateBytes = s.rateBytes := rfl
@[simp] theorem permute_suffix : (permute s).suffix = s.suffix := rfl
@[simp] theorem permute_absorbed : (permute s).absorbed = s.absorbed := rfl
@[simp] theorem permute_squeezed : (permute s).squeezed = s.squeezed := rfl
@[simp] theorem permute_warn : (permute s).warn = s.warn := rfl
@[simp] theorem permute_flt : (permute s).flt = s.flt := rfl
@[simp] theorem permute_err : (permute s).err = s.err := rfl
@[simp] theorem permute_alpha : (permute s).alpha = s.alpha := rfl
@[simp] theorem permute_alen : (permute s).alen = s.alen := rfl
@[simp] theorem permute_build : (permute s).build = s.build := rfl
@[simp] theorem permute_inputs : (permute s).inputs = s.inputs := rfl
@[simp] theorem permute_busy : (permute s).busy = s.busy := rfl
@[simp] theorem permute_rsp : (permute s).rsp = s.rsp := rfl

end

/-! ### deliver -/

section
variable  (s : State)

@[simp] theorem deliver_lane : (deliver s).lane = s.lane := rfl
@[simp] theorem deliver_cfg : (deliver s).cfg = s.cfg := rfl
@[simp] theorem deliver_rateBytes : (deliver s).rateBytes = s.rateBytes := rfl
@[simp] theorem deliver_suffix : (deliver s).suffix = s.suffix := rfl
@[simp] theorem deliver_absorbed : (deliver s).absorbed = s.absorbed := rfl
@[simp] theorem deliver_squeezed : (deliver s).squeezed = s.squeezed := rfl
@[simp] theorem deliver_warn : (deliver s).warn = s.warn := rfl
@[simp] theorem deliver_flt : (deliver s).flt = s.flt := rfl
@[simp] theorem deliver_err : (deliver s).err = s.err := rfl
@[simp] theorem deliver_alpha : (deliver s).alpha = s.alpha := rfl
@[simp] theorem deliver_alen : (deliver s).alen = s.alen := rfl
@[simp] theorem deliver_build : (deliver s).build = s.build := rfl
@[simp] theorem deliver_inputs : (deliver s).inputs = s.inputs := rfl
@[simp] theorem deliver_busy : (deliver s).busy = s.busy := rfl
@[simp] theorem deliver_rsp : (deliver s).rsp = none := rfl

end

/-! ### resetCore -/

section
variable  (s : State)

@[simp] theorem resetCore_lane : (resetCore s).lane = State.reset.lane := rfl
@[simp] theorem resetCore_cfg : (resetCore s).cfg = State.reset.cfg := rfl
@[simp] theorem resetCore_rateBytes : (resetCore s).rateBytes = State.reset.rateBytes := rfl
@[simp] theorem resetCore_suffix : (resetCore s).suffix = State.reset.suffix := rfl
@[simp] theorem resetCore_absorbed : (resetCore s).absorbed = State.reset.absorbed := rfl
@[simp] theorem resetCore_squeezed : (resetCore s).squeezed = State.reset.squeezed := rfl
@[simp] theorem resetCore_warn : (resetCore s).warn = State.reset.warn := rfl
@[simp] theorem resetCore_flt : (resetCore s).flt = State.reset.flt := rfl
@[simp] theorem resetCore_err : (resetCore s).err = State.reset.err := rfl
@[simp] theorem resetCore_alpha : (resetCore s).alpha = State.reset.alpha := rfl
@[simp] theorem resetCore_alen : (resetCore s).alen = State.reset.alen := rfl
@[simp] theorem resetCore_build : (resetCore s).build = s.build := rfl
@[simp] theorem resetCore_inputs : (resetCore s).inputs = s.inputs := rfl
@[simp] theorem resetCore_busy : (resetCore s).busy = State.reset.busy := rfl
@[simp] theorem resetCore_rsp : (resetCore s).rsp = State.reset.rsp := rfl

end

/-! ### startSession -/

section
variable (rate : BitVec 11) (sfx : Byte) (s : State)

@[simp] theorem startSession_lane : (startSession rate sfx s).lane = zeroLanes := rfl
@[simp] theorem startSession_cfg : (startSession rate sfx s).cfg = true := rfl
@[simp] theorem startSession_rateBytes : (startSession rate sfx s).rateBytes = rateBytesOf rate := rfl
@[simp] theorem startSession_suffix : (startSession rate sfx s).suffix = sfx := rfl
@[simp] theorem startSession_absorbed : (startSession rate sfx s).absorbed = 0 := rfl
@[simp] theorem startSession_squeezed : (startSession rate sfx s).squeezed = rateBytesOf rate := rfl
@[simp] theorem startSession_warn : (startSession rate sfx s).warn = false := rfl
@[simp] theorem startSession_flt : (startSession rate sfx s).flt = s.flt := rfl
@[simp] theorem startSession_err : (startSession rate sfx s).err = s.err := rfl
@[simp] theorem startSession_alpha : (startSession rate sfx s).alpha = s.alpha := rfl
@[simp] theorem startSession_alen : (startSession rate sfx s).alen = s.alen := rfl
@[simp] theorem startSession_build : (startSession rate sfx s).build = s.build := rfl
@[simp] theorem startSession_inputs : (startSession rate sfx s).inputs = s.inputs := rfl
@[simp] theorem startSession_busy : (startSession rate sfx s).busy = s.busy := rfl
@[simp] theorem startSession_rsp : (startSession rate sfx s).rsp = s.rsp := rfl

end

/-! ### Two updates in a row -/

@[simp] theorem respond_respond (c d : RspCode) (x y : Word) (s : State) :
    respond c x (respond d y s) = respond c x s := rfl

@[simp] theorem respond_deliver (c : RspCode) (x : Word) (s : State) :
    respond c x (deliver s) = respond c x s := rfl

@[simp] theorem fatal_deliver (c : RspCode) (s : State) : fatal c (deliver s) = fatal c s := rfl

@[simp] theorem deliver_respond (c : RspCode) (x : Word) (s : State) :
    deliver (respond c x s) = deliver s := rfl

@[simp] theorem deliver_deliver (s : State) : deliver (deliver s) = deliver s := rfl

end Sys2Proof.Machine
end

