-- ==== Sys2Proof/Laws/Api.lean ====
section
/-! SUPPORT. What a host gets from issuing a sequence of commands (R192), said once. -/

namespace Sys2Proof.Machine

/-- A sequence starts by taking the response that waits. -/
theorem runCommands_deliver (is : List Instr) (s : State) : runCommands is (deliver s) = runCommands is s := by
  cases is <;> rfl

/-- One command that answers OK, and then the rest. -/
theorem runCommands_cons_ok {i : Instr} {s t : State} {x : Word} (is : List Instr)
    (h : exec i (deliver s) = .next t) (hr : t.rsp = some ⟨.ok, x⟩) :
    runCommands (i :: is) s = (runCommands is (deliver t)).map fun p => (⟨.ok, x⟩ :: p.1, p.2) := by
  rw [runCommands_deliver]
  simp only [runCommands, h, hr, if_true]
  cases runCommands is t <;> rfl

/-- What a sequence can do at its first command: it answers OK and the rest is issued, or it answers with an
error and nothing more is issued. -/
theorem runCommands_cons {i : Instr} {is : List Instr} {s u : State} {rs : List Response}
    (h : runCommands (i :: is) s = some (rs, u)) :
    ∃ t r, exec i (deliver s) = .next t ∧ t.rsp = some r ∧
      ((r.code = .ok ∧ ∃ qs, runCommands is (deliver t) = some (qs, u) ∧ rs = r :: qs) ∨
        (r.code ≠ .ok ∧ rs = [r] ∧ u = deliver t)) := by
  simp only [runCommands] at h
  split at h
  · rename_i t ht
    split at h
    · cases h
    · rename_i r hr
      refine ⟨t, r, ht, hr, ?_⟩
      split at h
      · rename_i hok
        split at h
        · rename_i qs v hq
          cases h
          exact .inl ⟨hok, qs, by rw [runCommands_deliver, hq], rfl⟩
        · cases h
      · rename_i hok
        cases h
        exact .inr ⟨hok, rfl, rfl⟩
  · cases h
  · cases h

/-- The state after a sequence has no response waiting. -/
theorem runCommands_rsp {is : List Instr} {s t : State} {rs : List Response}
    (h : runCommands is s = some (rs, t)) : t.rsp = none := by
  induction is generalizing s rs with
  | nil => cases h; rfl
  | cons i is ih =>
    obtain ⟨v, r, -, -, ⟨-, qs, hq, -⟩ | ⟨-, -, rfl⟩⟩ := runCommands_cons h
    · exact ih hq
    · rfl

/-- Where every response is OK there is one for each command. -/
theorem runCommands_length {is : List Instr} {s t : State} {rs : List Response}
    (h : runCommands is s = some (rs, t)) (hok : ∀ r ∈ rs, r.code = .ok) : rs.length = is.length := by
  induction is generalizing s rs with
  | nil => cases h; rfl
  | cons i is ih =>
    obtain ⟨v, r, -, -, ⟨-, qs, hq, rfl⟩ | ⟨hr, rfl, -⟩⟩ := runCommands_cons h
    · exact congrArg Nat.succ (ih hq fun q hm => hok q (List.mem_cons_of_mem _ hm))
    · exact absurd (hok r (List.mem_singleton_self r)) hr

/-- A sequence all of whose commands answer OK, and then another. -/
theorem runCommands_append {is js : List Instr} {s t : State} {rs : List Response}
    (h : runCommands is s = some (rs, t)) (hok : ∀ r ∈ rs, r.code = .ok) :
    runCommands (is ++ js) s = (runCommands js t).map fun p => (rs ++ p.1, p.2) := by
  induction is generalizing s rs with
  | nil =>
    cases h
    rw [runCommands_deliver, List.nil_append]
    cases runCommands js s <;> rfl
  | cons i is ih =>
    obtain ⟨v, r, hv, hr, ⟨hc, qs, hq, rfl⟩ | ⟨hr, rfl, -⟩⟩ := runCommands_cons h
    · obtain ⟨code, x⟩ := r
      cases hc
      rw [List.cons_append, runCommands_cons_ok _ hv hr,
        ih hq fun q hm => hok q (List.mem_cons_of_mem _ hm)]
      cases runCommands js t <;> rfl
    · exact absurd (hok r (List.mem_singleton_self r)) hr

/-- A call returns exactly when every command answers OK, and then what its responses hold. -/
theorem callApi_returned_iff {α : Type} {is : List Instr} {f : List Response → α} {s t : State} {x : α} :
    callApi is f s = some (.returned x, t) ↔
      ∃ rs, runCommands is s = some (rs, t) ∧ (∀ r ∈ rs, r.code = .ok) ∧ x = f rs := by
  unfold callApi
  constructor
  · intro h
    split at h
    · cases h
    · rename_i rs u hrun
      split at h
      · cases h
      · rename_i hn
        cases h
        exact ⟨rs, hrun, by simpa using hn, rfl⟩
  · rintro ⟨rs, hrun, hok, rfl⟩
    have hn : rs.find? (fun r => r.code != .ok) = none := by simpa using hok
    simp only [hrun, hn]

end Sys2Proof.Machine
end

