-- ==== Sys2Proof/Laws/Ops.lean ====
section
/-! SUPPORT. For each shared operation, what it can do, said once: later proofs cite these lemmas and do not
unfold the operations. -/

namespace Sys2Proof.Machine

/-! ### The prologue -/

/-- When the prologue lets a command run (R215). -/
theorem check_eq_none_iff (i : Instr) (n : Bool) (s : State) :
    check (some i) n s = none ↔
      (s.flt = false ∨ i = .status) ∧ i.wellFormed s.build = true ∧ (n = true → s.cfg = true) := by
  have hd : (some i != some Instr.status) = true ↔ ¬ i = .status := by simp
  unfold check
  generalize (some i != some Instr.status) = d at hd
  cases hf : s.flt <;> cases d <;> cases hw : i.wellFormed s.build <;> cases n <;> cases hc : s.cfg <;>
    simp_all

/-- When the prologue ends a command, how (R215). -/
theorem check_eq_some (d : Option Instr) (n : Bool) (s t : State) (h : check d n s = some t) :
    (s.flt = true ∧ d ≠ some .status ∧ t = respond .faulted 0 s) ∨
    ((s.flt = false ∨ d = some .status) ∧ (∀ i, d = some i → i.wellFormed s.build = false) ∧
      t = fatal .illegal s) ∨
    ((s.flt = false ∨ d = some .status) ∧ (∃ i, d = some i ∧ i.wellFormed s.build = true) ∧ n = true ∧
      s.cfg = false ∧ t = fatal .noSession s) := by
  unfold check at h
  split at h
  · rename_i hf
    simp only [Bool.and_eq_true, bne_iff_ne, ne_eq] at hf
    exact .inl ⟨hf.1, hf.2, (Option.some.inj h).symm⟩
  · rename_i hf
    have hs : s.flt = false ∨ d = some .status := by
      simp only [Bool.and_eq_true, bne_iff_ne, ne_eq, not_and, not_not] at hf
      cases hf' : s.flt
      · exact .inl rfl
      · exact .inr (hf hf')
    right
    cases d with
    | none => exact .inl ⟨hs, fun i hi => by simp at hi, (Option.some.inj h).symm⟩
    | some i =>
      dsimp only at h
      split at h
      · rename_i hw
        refine .inl ⟨hs, fun j hj => ?_, (Option.some.inj h).symm⟩
        cases Option.some.inj hj
        simpa using hw
      · rename_i hw
        split at h
        · rename_i hc
          simp only [Bool.and_eq_true, Bool.not_eq_true'] at hc
          exact .inr ⟨hs, ⟨i, rfl, by simpa using hw⟩, hc.1, hc.2, (Option.some.inj h).symm⟩
        · exact absurd h (by simp)

/-- The prologue lets a command run that is well-formed, with a session where it needs one, on a core that
is not FAULTED (R215). -/
theorem check_passes {i : Instr} {n : Bool} {s : State} (hf : s.flt = false)
    (hw : i.wellFormed s.build = true) (hn : n = true → s.cfg = true) : check (some i) n s = none :=
  (check_eq_none_iff i n s).2 ⟨.inl hf, hw, hn⟩

/-- An illegal word ends in the prologue (R81, R216). -/
theorem execIllegal_eq (s : State) :
    execIllegal s = .next (if s.flt then respond .faulted 0 s else fatal .illegal s) := by
  unfold execIllegal check
  cases s.flt <;> simp

/-! ### The state byte view -/

theorem stateByte_of_lt {i : Nat} (s : State) (h : i < 200) :
    stateByte i s = .ok (laneByte s.lane[i / 8] (i % 8)) := by
  simp [stateByte, Config.stateBytes, h]

theorem stateByte_of_ge {i : Nat} (s : State) (h : 200 ≤ i) : stateByte i s = .error .noStateByte := by
  simp [stateByte, Config.stateBytes, Nat.not_lt.2 h]

/-- The byte view reads the lanes and nothing else. -/
theorem stateByte_congr {s t : State} (h : s.lane = t.lane) (i : Nat) : stateByte i s = stateByte i t := by
  unfold stateByte
  simp only [h]

theorem stateXorByte_of_lt {i : Nat} (v : Byte) (s : State) (h : i < 200) :
    stateXorByte i v s =
      .ok { s with lane := s.lane.set (i / 8) (s.lane[i / 8] ^^^ (v.setWidth 64 <<< (8 * (i % 8)))) } := by
  simp [stateXorByte, Config.stateBytes, h]

theorem stateXorByte_of_ge {i : Nat} (v : Byte) (s : State) (h : 200 ≤ i) :
    stateXorByte i v s = .error .noStateByte := by
  simp [stateXorByte, Config.stateBytes, Nat.not_lt.2 h]

/-- A byte XOR writes only the lanes, at an address of the view (R22). -/
theorem stateXorByte_ok {i : Nat} {v : Byte} {s t : State} (h : stateXorByte i v s = .ok t) :
    i < 200 ∧ t = { s with lane := t.lane } := by
  by_cases hi : i < 200
  · rw [stateXorByte_of_lt v s hi] at h
    cases h
    exact ⟨hi, rfl⟩
  · rw [stateXorByte_of_ge v s (Nat.not_lt.1 hi)] at h
    cases h

/-! ### The sponge's procedures -/

/-- AbsorbByte writes the lanes and `absorbed` (R133). -/
theorem absorbByte_ok {b : Byte} {s t : State} (h : absorbByte b s = .ok t) :
    s.absorbed.toNat < 200 ∧ t = { s with lane := t.lane, absorbed := t.absorbed } := by
  unfold absorbByte at h
  split at h
  · cases h
  · rename_i u hu
    obtain ⟨hi, hs⟩ := stateXorByte_ok hu
    refine ⟨hi, ?_⟩
    cases h
    rw [hs]
    unfold advanceAbsorbed
    split <;> rfl

/-- Pad writes the lanes and sets `squeezed` to 0; it does not write `absorbed` (R136, R138). -/
theorem pad_ok {s t : State} (h : pad s = .ok t) : t = { s with lane := t.lane, squeezed := 0 } := by
  unfold pad at h
  split at h
  · cases h
  · rename_i u hu
    split at h
    · cases h
    · rename_i v hv
      cases h
      obtain ⟨-, hs⟩ := stateXorByte_ok hu
      obtain ⟨-, hm⟩ := stateXorByte_ok hv
      have hp : padMiddle u = { u with lane := (padMiddle u).lane } := by
        unfold padMiddle
        split <;> rfl
      rw [hm, hp, hs]
      rfl

/-- SqueezeByte pads if nothing was squeezed yet, reads the byte at `squeezed` and advances (R141). -/
theorem squeezeByte_ok {s t : State} {k : Byte} (h : squeezeByte s = .ok (k, t)) :
    ∃ u, padIfVirgin s = .ok u ∧ stateByte u.squeezed.toNat u = .ok k ∧ t = advanceSqueezed u := by
  unfold squeezeByte at h
  split at h
  · cases h
  · rename_i u hu
    split at h
    · cases h
    · rename_i x hx
      cases h
      exact ⟨u, hu, hx, rfl⟩

/-- SqueezeByte writes the lanes and `squeezed` (R140). -/
theorem squeezeByte_frame {s t : State} {k : Byte} (h : squeezeByte s = .ok (k, t)) :
    t = { s with lane := t.lane, squeezed := t.squeezed } := by
  obtain ⟨u, hu, -, rfl⟩ := squeezeByte_ok h
  have hs : u = { s with lane := u.lane, squeezed := u.squeezed } := by
    unfold padIfVirgin at hu
    split at hu
    · have := pad_ok hu
      rw [this]
    · cases hu
      rfl
  unfold advanceSqueezed
  rw [hs]
  split <;> rfl

/-! ### In a well-formed session the sponge's procedures cannot fail (R214) -/

theorem stateXorByte_total {i : Nat} (v : Byte) (s : State) (h : i < 200) :
    ∃ L, stateXorByte i v s = .ok { s with lane := L } := ⟨_, stateXorByte_of_lt v s h⟩

/-- A draw and a squeeze keep the session well-formed. -/
theorem sessionWf_of_squeezed {s : State} (L : Lanes) {q : Byte} (h : s.SessionWf)
    (hq : q.toNat < s.rateBytes.toNat) : State.SessionWf { s with lane := L, squeezed := q } :=
  ⟨h.1, h.2.1, h.2.2.1, Nat.le_of_lt hq⟩

theorem absorbByte_total {s : State} (b : Byte) (h : s.SessionWf) :
    ∃ (L : Lanes) (a : Byte), absorbByte b s = .ok { s with lane := L, absorbed := a } ∧
      a.toNat < s.rateBytes.toNat := by
  obtain ⟨h1, h2, h3, h4⟩ := h
  obtain ⟨L, hL⟩ := stateXorByte_total b s (i := s.absorbed.toNat) (by omega)
  simp only [absorbByte, hL]
  unfold advanceAbsorbed
  split
  · exact ⟨_, 0, rfl, by simp; omega⟩
  · rename_i hne
    refine ⟨_, s.absorbed + 1, rfl, ?_⟩
    simp only at hne
    have hn : (s.absorbed + 1).toNat ≠ s.rateBytes.toNat := fun e => hne (BitVec.eq_of_toNat_eq e)
    have : (s.absorbed + 1).toNat = (s.absorbed.toNat + 1) % 256 := by simp [BitVec.toNat_add]
    omega

theorem pad_total {s : State} (h : s.SessionWf) :
    ∃ L : Lanes, pad s = .ok { s with lane := L, squeezed := 0 } := by
  obtain ⟨h1, h2, h3, -⟩ := h
  obtain ⟨L, hL⟩ := stateXorByte_total s.suffix s (i := s.absorbed.toNat) (by omega)
  obtain ⟨M, hM⟩ : ∃ M, padMiddle { s with lane := L } = { s with lane := M } := by
    unfold padMiddle
    split
    · exact ⟨_, rfl⟩
    · exact ⟨_, rfl⟩
  obtain ⟨N, hN⟩ := stateXorByte_total 0x80 { s with lane := M } (i := (s.rateBytes - 1).toNat) (by
    rw [BitVec.toNat_sub]
    simp
    omega)
  exact ⟨keccakF N, by simp only [pad, hL, hM, hN, permute]⟩

theorem squeezeByte_total {s : State} (h : s.SessionWf) :
    ∃ (k : Byte) (L : Lanes) (q : Byte), squeezeByte s = .ok (k, { s with lane := L, squeezed := q }) ∧
      q.toNat < s.rateBytes.toNat := by
  have h1 := h.1
  have h2 := h.2.1
  obtain ⟨L, q, hq, hlt⟩ : ∃ (L : Lanes) (q : Byte),
      padIfVirgin s = .ok { s with lane := L, squeezed := q } ∧ q.toNat < s.rateBytes.toNat := by
    unfold padIfVirgin
    split
    · obtain ⟨L, hL⟩ := pad_total h
      exact ⟨L, 0, hL, by simp; omega⟩
    · rename_i hne
      refine ⟨s.lane, s.squeezed, rfl, ?_⟩
      have := h.2.2.2
      have hn : s.squeezed.toNat ≠ s.rateBytes.toNat := fun e => hne (BitVec.eq_of_toNat_eq e)
      omega
  simp only [squeezeByte, hq, stateByte_of_lt _ (show q.toNat < 200 by omega)]
  unfold advanceSqueezed
  split
  · exact ⟨_, _, 0, rfl, by simp; omega⟩
  · rename_i hne
    refine ⟨_, _, q + 1, rfl, ?_⟩
    simp only at hne
    have hn : (q + 1).toNat ≠ s.rateBytes.toNat := fun e => hne (BitVec.eq_of_toNat_eq e)
    have : (q + 1).toNat = (q.toNat + 1) % 256 := by simp [BitVec.toNat_add]
    omega

/-- The bounded loop in a well-formed session: no draw counted is accepted, or a key is. -/
theorem drawKey_total {L n : Nat} {s : State} (h : s.SessionWf) :
    drawKey L n s = .none ∨ ∃ (k : Byte) (M : Lanes) (q : Byte),
      drawKey L n s = .key k { s with lane := M, squeezed := q } ∧ q.toNat < s.rateBytes.toNat := by
  induction n generalizing s with
  | zero => exact .inl rfl
  | succ n ih =>
    obtain ⟨k, M, q, hs, hq⟩ := squeezeByte_total h
    simp only [drawKey, hs]
    split
    · exact .inr ⟨k, M, q, rfl, hq⟩
    · rcases ih (sessionWf_of_squeezed M h hq) with h' | ⟨k', M', q', h', hq'⟩
      · exact .inl h'
      · exact .inr ⟨k', M', q', h', hq'⟩

/-! ### The rejection loop -/

/-- A key the bounded loop finds is the key of the rule's loop (R164). -/
theorem drawKey_key {L n : Nat} {s t : State} {k : Byte} (h : drawKey L n s = .key k t) :
    DrawsKey L s k t := by
  induction n generalizing s with
  | zero => simp [drawKey] at h
  | succ n ih =>
    simp only [drawKey] at h
    split at h
    · cases h
    · rename_i x u hu
      split at h
      · rename_i hx
        cases h
        exact .accept hu hx
      · rename_i hx
        exact .discard hu hx (ih h)

/-- The rejection loop writes the lanes and `squeezed`, and its key is below `L` (R164, R167). -/
theorem drawsKey_frame {L : Nat} {s t : State} {k : Byte} (h : DrawsKey L s k t) :
    k.toNat < L ∧ t = { s with lane := t.lane, squeezed := t.squeezed } := by
  induction h with
  | accept h hk => exact ⟨hk, squeezeByte_frame h⟩
  | discard h _ _ ih =>
    refine ⟨ih.1, ?_⟩
    have h1 := squeezeByte_frame h
    have h2 := ih.2
    rw [h2, h1]

/-- The rejection loop has one outcome: it is deterministic (R219). -/
theorem drawsKey_unique {L : Nat} {s t t' : State} {k k' : Byte} (h : DrawsKey L s k t)
    (h' : DrawsKey L s k' t') : k = k' ∧ t = t' := by
  induction h with
  | accept h hk =>
    cases h' with
    | accept g _ =>
      rw [h] at g
      cases g
      exact ⟨rfl, rfl⟩
    | discard g hx _ =>
      rw [h] at g
      cases g
      exact absurd hk hx
  | discard h hx _ ih =>
    cases h' with
    | accept g hk =>
      rw [h] at g
      cases g
      exact absurd hk hx
    | discard g _ hr =>
      rw [h] at g
      cases g
      exact ih hr

/-! ### Reset -/

/-- Reset leaves the reset state, but for the build and the host's next actions (R240). -/
theorem resetCore_eq (s : State) :
    resetCore s = { State.reset with build := s.build, inputs := s.inputs } := rfl

/-! ### Grid access -/

theorem laneIndex_columnOf (i : Fin 25) : laneIndex (columnOf i) (rowNumberOf i) = i := by
  ext
  simp only [laneIndex, columnOf, rowNumberOf]
  omega

theorem columnOf_laneIndex (x y : Fin 5) : columnOf (laneIndex x y) = x := by
  ext
  simp only [laneIndex, columnOf]
  omega

theorem rowNumberOf_laneIndex (x y : Fin 5) : rowNumberOf (laneIndex x y) = y := by
  ext
  simp only [laneIndex, rowNumberOf]
  omega

/-- A grid built by position reads back by position (R11). -/
@[simp] theorem laneAt_lanesOf (f : Fin 5 → Fin 5 → Word) (x y : Fin 5) : laneAt (lanesOf f) x y = f x y := by
  simp [laneAt, lanesOf, columnOf_laneIndex, rowNumberOf_laneIndex]

end Sys2Proof.Machine
end

