-- ==== Sys2Proof/Laws/PerInstr.lean ====
section
/-! SUPPORT. Statements about every command as syntax, one lemma per constructor. -/

namespace Sys2Proof.Laws.EncodeSpellsRow

/-- The word of a command agrees with its row of R80's table under the row's mask: its opcode is the
row's, and every reserved or unused bit is 0. -/
def Statement (i : Instr) : Prop := (rowOf i).spells (encode i) = true

theorem spells_iff (r : Row) (w : Word) : r.spells w = true ↔ w &&& r.mask = r.pattern := by
  simp [Row.spells]

theorem init (rate cap : BitVec 11) (sfx : Byte) : Statement (.init rate cap sfx) := by
  have hm : rowInit.mask = (0xFF#8 ++ 0x1FFF#13 ++ 0#11 ++ 0x1F#5 ++ 0#11 ++ 0xFF#8 ++ 0#8 : Word) := by decide
  have hp : rowInit.pattern = (0x01#8 ++ 0#13 ++ 0#11 ++ 0#5 ++ 0#11 ++ 0#8 ++ 0#8 : Word) := by decide
  have key : (0x01#8 ++ 0#13 ++ rate ++ 0#5 ++ cap ++ 0#8 ++ sfx)
      &&& (0xFF#8 ++ 0x1FFF#13 ++ 0#11 ++ 0x1F#5 ++ 0#11 ++ 0xFF#8 ++ 0#8)
      = (0x01#8 ++ 0#13 ++ 0#11 ++ 0#5 ++ 0#11 ++ 0#8 ++ 0#8) := by
    simp only [BitVec.and_append]
    simp
  refine (spells_iff _ _).2 ?_
  rw [show (rowOf (.init rate cap sfx)) = rowInit from rfl, hm, hp]
  exact key

theorem absorb (e : Bool) (b : Byte) : Statement (.absorb e b) := by
  have hm : rowAbsorb.mask = (0xFF#8 ++ BitVec.allOnes 47 ++ 0#1 ++ 0#8 : Word) := by decide
  have hp : rowAbsorb.pattern = (0x02#8 ++ 0#47 ++ 0#1 ++ 0#8 : Word) := by decide
  have key : (0x02#8 ++ 0#47 ++ BitVec.ofBool e ++ b)
      &&& (0xFF#8 ++ BitVec.allOnes 47 ++ 0#1 ++ 0#8)
      = (0x02#8 ++ 0#47 ++ 0#1 ++ 0#8) := by
    simp only [BitVec.and_append]
    simp
  refine (spells_iff _ _).2 ?_
  rw [show (rowOf (.absorb e b)) = rowAbsorb from rfl, hm, hp]
  exact key

theorem squeeze (e : Bool) : Statement (.squeeze e) := by
  cases e <;> exact (spells_iff _ _).2 (by decide)

theorem xor (b : Byte) : Statement (.xor b) := by
  have hm : rowXor.mask = (0xFF#8 ++ BitVec.allOnes 48 ++ 0#8 : Word) := by decide
  have hp : rowXor.pattern = (0x04#8 ++ 0#48 ++ 0#8 : Word) := by decide
  have key : (0x04#8 ++ 0#48 ++ b)
      &&& (0xFF#8 ++ BitVec.allOnes 48 ++ 0#8)
      = (0x04#8 ++ 0#48 ++ 0#8) := by
    simp only [BitVec.and_append]
    simp
  refine (spells_iff _ _).2 ?_
  rw [show (rowOf (.xor b)) = rowXor from rfl, hm, hp]
  exact key

theorem text (d : Direction) (c : CharCode) : Statement (.text d c) := by
  have hm : rowText.mask = (0xFF#8 ++ BitVec.allOnes 23 ++ 0#1 ++ 0#32 : Word) := by decide
  have hp : rowText.pattern = (0x05#8 ++ 0#23 ++ 0#1 ++ 0#32 : Word) := by decide
  have key : (0x05#8 ++ 0#23 ++ BitVec.ofBool d.toBit ++ c)
      &&& (0xFF#8 ++ BitVec.allOnes 23 ++ 0#1 ++ 0#32)
      = (0x05#8 ++ 0#23 ++ 0#1 ++ 0#32) := by
    simp only [BitVec.and_append]
    simp
  refine (spells_iff _ _).2 ?_
  rw [show (rowOf (.text d c)) = rowText from rfl, hm, hp]
  exact key

theorem alphaClear : Statement .alphaClear := (spells_iff _ _).2 (by decide)

theorem alphaAppend (c : CharCode) : Statement (.alphaAppend c) := by
  have hm : rowAlphaAppend.mask = (0xFF#8 ++ BitVec.allOnes 24 ++ 0#32 : Word) := by decide
  have hp : rowAlphaAppend.pattern = (0x07#8 ++ 0#24 ++ 0#32 : Word) := by decide
  have key : (0x07#8 ++ 0#24 ++ c)
      &&& (0xFF#8 ++ BitVec.allOnes 24 ++ 0#32)
      = (0x07#8 ++ 0#24 ++ 0#32) := by
    simp only [BitVec.and_append]
    simp
  refine (spells_iff _ _).2 ?_
  rw [show (rowOf (.alphaAppend c)) = rowAlphaAppend from rfl, hm, hp]
  exact key

theorem status : Statement .status := (spells_iff _ _).2 (by decide)

theorem keccakF : Statement .keccakF := (spells_iff _ _).2 (by decide)

theorem laneRead (idx : BitVec 5) : Statement (.laneRead idx) := by
  have hm : rowLaneRead.mask = (0xFF#8 ++ BitVec.allOnes 51 ++ 0#5 : Word) := by decide
  have hp : rowLaneRead.pattern = (0x0A#8 ++ 0#51 ++ 0#5 : Word) := by decide
  have key : (0x0A#8 ++ 0#51 ++ idx)
      &&& (0xFF#8 ++ BitVec.allOnes 51 ++ 0#5)
      = (0x0A#8 ++ 0#51 ++ 0#5) := by
    simp only [BitVec.and_append]
    simp
  refine (spells_iff _ _).2 ?_
  rw [show (rowOf (.laneRead idx)) = rowLaneRead from rfl, hm, hp]
  exact key

end Sys2Proof.Laws.EncodeSpellsRow
end

