-- ==== Sys2Proof/Tests/Slice0.lean ====
section
/-! SUPPORT. The model's own tests, with results from spec/95_test_vectors.md and the examples of the rules, and
for every statement with hypotheses a concrete state that meets them. -/

namespace Sys2Proof.Tests

open Sys2Proof Sys2Proof.Machine

/- One test after the other: tests that wait for each other's kernel check each hold a thread and its stack. -/
set_option Elab.async false

/-! ### Helpers -/

/-- The next state of an outcome. -/
def after (o : Host.Outcome State Fault Refusal) : Option State :=
  match o with
  | .next t => some t
  | .fault _ => none
  | .refused _ => none

/-- Code and data of the response an outcome leaves on the port. -/
def answer (o : Host.Outcome State Fault Refusal) : Option (BitVec 4 × Word) :=
  match after o with
  | none => none
  | some t => t.rsp.map fun r => (r.code.bits, r.data)

/-- The status word of the state an outcome leaves. -/
def statusAfter (o : Host.Outcome State Fault Refusal) : Option Word := (after o).map statusWord

/-- An outcome is a next state with a property. -/
def nextWith (p : State → Bool) (o : Host.Outcome State Fault Refusal) : Bool :=
  match o with
  | .next t => p t
  | .fault _ => false
  | .refused _ => false

theorem exists_next {p : State → Bool} {o : Host.Outcome State Fault Refusal} (h : nextWith p o = true) :
    ∃ t, o = .next t ∧ p t = true := by
  cases o with
  | next t => exact ⟨t, rfl, h⟩
  | fault f => cases h
  | refused r => cases h

theorem exists_run {α : Type} {o : Option α} (h : o.isSome = true) : ∃ x, o = some x :=
  Option.isSome_iff_exists.1 h

/-- Right after `INIT 1088, 512, 0x1F` (V11). -/
def session : State :=
  { State.reset with cfg := true, rateBytes := 136, suffix := 0x1F, squeezed := 136 }

/-- session("test") (V12). -/
def absorbedTest : State :=
  { session with lane := zeroLanes.set 0 0x0000000074736574, absorbed := 4 }

/-- The lanes at the end of P1, which are Pad's output. -/
def lanesOfP1 : Lanes :=
  #v[0x1EA7055725F74FB5, 0x1AE4303E4A5E92E2, 0xE095559D579A48ED, 0x02D24D1E2EE313DF, 0x8D41D6318BF6C7A7,
    0xA6DD7A754DEB4598, 0x81DB40B31B9E18AB, 0xFA92D925C73B5B8E, 0x5110DB00059B3EF6, 0x3ABA6F563F9DE07F,
    0x417D0C3E406AE480, 0xB06226CF75BF8F54, 0xD8981F9602B52502, 0x234CB2E07D93FFC9, 0xB7E09F58B89F4518,
    0xA9F1CEE3E95DEB34, 0x88362467AE9DE4BE, 0x644CEDAA3D783B2C, 0x0FFE2AADDBB60707, 0x5CAE37AEE5371EC4,
    0x67B7FB5A582AD12A, 0x27C8AEDD39E61D08, 0x089D14DB8DAF5E14, 0xCE35FDFD73E075DB, 0x87E53E6C681B1007]

/-- session("test") after SQUEEZE.E (V17, P1). -/
def paddedTest : State := { absorbedTest with lane := lanesOfP1, squeezed := 0 }

/-- Right after `INIT 1600, 0, 0` (V11). -/
def wideSession : State := { State.reset with cfg := true, rateBytes := 200, squeezed := 200 }

/-- Right after `INIT 8, 1592, 0x80` (V19). -/
def narrowSession : State :=
  { State.reset with cfg := true, rateBytes := 1, suffix := 0x80, squeezed := 1 }

/-- KeccakF of the zero state (V1). -/
def lanesOfV1 : Lanes :=
  #v[0xF1258F7940E1DDE7, 0x84D5CCF933C0478A, 0xD598261EA65AA9EE, 0xBD1547306F80494D, 0x8B284E056253D057,
    0xFF97A42D7F8E6FD4, 0x90FEE5A0A44647C4, 0x8C5BDA0CD6192E76, 0xAD30A6F71B19059C, 0x30935AB7D08FFC64,
    0xEB5AA93F2317D635, 0xA9A6E6260D712103, 0x81A57C16DBCF555F, 0x43B831CD0347C826, 0x01F22F1A11A5569F,
    0x05E5635A21D9AE61, 0x64BEFEF28CC970F2, 0x613670957BC46611, 0xB87C5A554FD00ECB, 0x8C3EE88A1CCF32C8,
    0x940C7922AE3A2614, 0x1841F924A2C509E4, 0x16F53526E70465C2, 0x75F644E97F30A13B, 0xEAF1FF7B5CECA249]

/-- A lane state with one lane set. -/
def oneLane (i : Fin 25) (v : Word) : Lanes := zeroLanes.set i v

/-! ### WellFormed: an ill-formed term for each check -/

theorem test_wellFormed_refuses_lane_25 : Instr.wellFormed ⟨true⟩ (.laneRead 25) = false := by decide

theorem test_wellFormed_refuses_laneRead_without_port : Instr.wellFormed ⟨false⟩ (.laneRead 0) = false := by
  decide

theorem test_wellFormed_refuses_keccakF_without_port : Instr.wellFormed ⟨false⟩ .keccakF = false := by decide

/-! ### Decode: words written out from R88 and V35 -/

theorem test_decode_init : decodeTableWord 64 0x010004400200001F = some (.init 1088 512 0x1F) := by decide

theorem test_decode_absorb : decodeTableWord 64 0x0200000000000074 = some (.absorb false 0x74) := by decide

theorem test_decode_absorb_empty : decodeTableWord 64 0x02000000000001FF = some (.absorb true 0xFF) := by decide

theorem test_decode_squeeze_empty : decodeTableWord 64 0x0300000000000100 = some (.squeeze true) := by decide

theorem test_decode_xor : decodeTableWord 64 0x0400000000000068 = some (.xor 0x68) := by decide

theorem test_decode_text : decodeTableWord 64 0x05000001FFFFFFFF = some (.text .decrypt 0xFFFFFFFF) := by decide

theorem test_decode_alphaClear : decodeTableWord 64 0x0600000000000000 = some .alphaClear := by decide

theorem test_decode_alphaAppend : decodeTableWord 64 0x0700000000000020 = some (.alphaAppend 0x20) := by decide

theorem test_decode_status : decodeTableWord 64 0x0800000000000000 = some .status := by decide

theorem test_decode_keccakF : decodeTableWord 64 0x0900000000000000 = some .keccakF := by decide

theorem test_decode_laneRead : decodeTableWord 64 0x0A00000000000018 = some (.laneRead 24) := by decide

/-- The illegal words of V34 and V35, each with its reason. -/
theorem test_decode_illegal_words :
    decode ⟨true⟩ 0x0100080000000000 = .error .reservedBit ∧
    decode ⟨true⟩ 0x0100044002000100 = .error .reservedBit ∧
    decode ⟨true⟩ 0x0200000000000200 = .error .reservedBit ∧
    decode ⟨true⟩ 0x0300000000000001 = .error .unusedField ∧
    decode ⟨true⟩ 0x0400000000000100 = .error .unusedField ∧
    decode ⟨true⟩ 0x0500000200000061 = .error .reservedBit ∧
    decode ⟨true⟩ 0x0700000100000041 = .error .unusedField ∧
    decode ⟨true⟩ 0x0800000000000001 = .error .reservedBit ∧
    decode ⟨true⟩ 0x0A00000000000019 = .error .laneIndex ∧
    decode ⟨true⟩ 0x0A00000000000020 = .error .reservedBit ∧
    decode ⟨true⟩ 0xFF00000000000000 = .error .undefinedOpcode ∧
    decode ⟨true⟩ 0 = .error .undefinedOpcode ∧
    decode ⟨false⟩ 0x0900000000000000 = .error .testPortAbsent := by
  refine ⟨rfl, rfl, rfl, rfl, rfl, rfl, rfl, rfl, rfl, rfl, rfl, rfl, rfl⟩

/-- The encoder writes the words of R88. -/
theorem test_encode_words :
    encode (.init 1088 512 0x1F) = 0x010004400200001F ∧ encode (.absorb true 0) = 0x0200000000000100 ∧
    encode (.squeeze false) = 0x0300000000000000 ∧ encode (.xor 0x68) = 0x0400000000000068 ∧
    encode (.text .decrypt 0x61) = 0x0500000100000061 ∧ encode .alphaClear = 0x0600000000000000 ∧
    encode (.alphaAppend 0x20) = 0x0700000000000020 ∧ encode .status = 0x0800000000000000 ∧
    encode .keccakF = 0x0900000000000000 ∧ encode (.laneRead 24) = 0x0A00000000000018 := by decide

/-- The words of R88's examples, and a line an assembler refuses. -/
theorem test_assemble_lines :
    assemble (.init 1088 512 0x1F) = some 0x010004400200001F ∧ assemble .absorbE = some 0x0200000000000100 ∧
    assemble (.textDec 0x61) = some 0x0500000100000061 ∧ assemble (.laneRead 24) = some 0x0A00000000000018 ∧
    assemble (.laneRead 25) = none ∧ assemble (.xor 256) = none := by
  decide

/-! ### The permutation (V3 to V8, V10) -/

theorem test_rotl64_corners :
    rotl64 0x8000000000000001 1 = 0x3 ∧ rotl64 0x0123456789ABCDEF 0 = 0x0123456789ABCDEF ∧
    rotl64 0x0123456789ABCDEF 63 = 0x8091A2B3C4D5E6F7 := by decide

theorem test_theta_one_lane :
    thetaStep (oneLane 0 1) =
      #v[1, 1, 0, 0, 2, 0, 1, 0, 0, 2, 0, 1, 0, 0, 2, 0, 1, 0, 0, 2, 0, 1, 0, 0, 2] := by
  decide +kernel

theorem test_rho_lane_6 : rhoStep (oneLane 6 1) = oneLane 6 0x0000100000000000 := by decide +kernel

theorem test_pi_lane_1 : piStep (oneLane 1 0xAB) = oneLane 10 0xAB := by decide +kernel

theorem test_chi_lanes_0_and_1 :
    chiStep ((oneLane 0 (BitVec.allOnes 64)).set 1 (BitVec.allOnes 64)) =
      ((oneLane 0 (BitVec.allOnes 64)).set 1 (BitVec.allOnes 64)).set 3 (BitVec.allOnes 64) := by
  decide +kernel

theorem test_iota_round_5 : iotaStep (oneLane 0 1) 5 = oneLane 0 0x0000000080000000 := by decide +kernel

theorem test_round_of_zero : keccakRound zeroLanes 0 = oneLane 0 1 := by decide +kernel

/-! ### The commands -/

/-- V11. -/
theorem test_init_status : statusAfter (exec (.init 1088 512 0x1F) State.reset) = some 0x00001B1F88880001 := by
  decide +kernel

/-- V34: the sum is not wrapped to 11 bits. -/
theorem test_init_sum_is_exact : answer (exec (.init 2047 2047 0x1F) State.reset) = some (3, 0) := by
  decide +kernel

/-- R133's example. -/
theorem test_absorb_first_byte :
    (after (exec (.absorb false 0x74) session)).map (fun t => (t.lane[0], t.absorbed)) = some (0x74, 1) := by
  decide +kernel

/-- V34: the STATUS after the ordering error. -/
theorem test_absorb_after_squeeze :
    statusAfter (exec (.absorb false 0x41) { session with squeezed := 1 }) = some 0x00001B1F8801004B := by
  decide +kernel

/-- V13: the first keystream byte. -/
theorem test_squeeze_first_byte : answer (exec (.squeeze false) paddedTest) = some (0, 0xB5) := by
  decide +kernel

/-- V23. -/
theorem test_xor_first_byte : answer (exec (.xor 0x68) paddedTest) = some (0, 0xDD) := by decide +kernel

/-- V24: six draws, key 5. -/
theorem test_text_encrypt :
    (after (exec (.text .encrypt 0x61) paddedTest)).map (fun t => (t.rsp, t.squeezed)) =
      some (some ⟨.ok, 0x66⟩, 6) := by
  decide +kernel

/-- V27: a passthrough draws nothing. -/
theorem test_text_passthrough :
    (after (exec (.text .encrypt 0x1F600) absorbedTest)).map (fun t => (t.rsp, statusWord t)) =
      some (some ⟨.ok, 0x000000010001F600⟩, 0x00001B1F88880405) := by
  decide +kernel

/-- R170's example. -/
theorem test_alphaClear : statusAfter (exec .alphaClear State.reset) = some 0 := by decide +kernel

/-- R171's example. -/
theorem test_alphaAppend :
    (after (exec (.alphaAppend 0x78) { State.reset with alen := 0 })).map (fun t => (t.alpha[0], t.alen)) =
      some (0x78, 1) := by
  decide +kernel

/-- V31: the 256th symbol. -/
theorem test_alphaAppend_full :
    statusAfter (exec (.alphaAppend 0x41) { absorbedTest with alen := 255 }) = some 0x0000FF1F88880439 := by
  decide +kernel

/-- R190's example. -/
theorem test_status_after_reset : answer (exec .status State.reset) = some (0, 0x00001B0000000000) := by
  decide +kernel

/-- V33. -/
theorem test_laneRead_24 :
    answer (exec (.laneRead 24) { wideSession with lane := lanesOfV1 }) = some (0, 0xEAF1FF7B5CECA249) := by
  decide +kernel

/-- V34, word 0: illegal, and the STATUS after. -/
theorem test_step_word_zero :
    (after (step (State.reset.withFetchWord 64 0))).map (fun t => (t.rsp, statusWord t)) =
      some (some ⟨.illegal, 0⟩, 0x00001B0000000018) := by
  decide +kernel

/-- V34: no session. -/
theorem test_step_no_session :
    (after (step (State.reset.withFetchWord 64 0x0300000000000000))).map (fun t => (t.rsp, statusWord t)) =
      some (some ⟨.noSession, 0⟩, 0x00001B0000000028) := by
  decide +kernel

/-- V34, last row: INIT on a FAULTED core. -/
theorem test_step_faulted :
    answer (step (State.withFetchWord { State.reset with flt := true, err := 1 } 64 0x010004400200001F)) =
      some (5, 0) := by
  decide +kernel

/-! ### Witnesses: states and operands that meet the hypotheses of the statements

Each is named after its statement (Sys2Proof/Certificates/Slice0/Obligations.lean); where a statement has several
clauses, each has its witness, at the boundary values of its ranges. -/

theorem witness_DecodeOfEncodeIsTheCommand :
    Instr.wellFormed ⟨true⟩ (.laneRead 24) = true ∧ Instr.wellFormed ⟨true⟩ (.laneRead 0) = true ∧
    Instr.wellFormed ⟨true⟩ .keccakF = true ∧ Instr.wellFormed ⟨false⟩ (.init 2047 2047 0xFF) = true := by
  decide

theorem witness_EncodeOfDecodeIsTheWord :
    decode ⟨false⟩ 0x02000000000001FF = .ok (.absorb true 0xFF) ∧
    decode ⟨true⟩ 0x0A00000000000018 = .ok (.laneRead 24) := ⟨rfl, rfl⟩

theorem witness_OperandFieldsAreReadStraight :
    decode ⟨true⟩ 0x010007FF07FF00FF = .ok (.init 2047 2047 0xFF) ∧
    decode ⟨true⟩ 0x02000000000001FF = .ok (.absorb true 0xFF) ∧
    decode ⟨true⟩ 0x0300000000000100 = .ok (.squeeze true) ∧
    decode ⟨true⟩ 0x04000000000000FF = .ok (.xor 0xFF) ∧
    decode ⟨true⟩ 0x05000001FFFFFFFF = .ok (.text .decrypt 0xFFFFFFFF) ∧
    decode ⟨true⟩ 0x07000000FFFFFFFF = .ok (.alphaAppend 0xFFFFFFFF) ∧
    decode ⟨true⟩ 0x0A00000000000018 = .ok (.laneRead 24) := ⟨rfl, rfl, rfl, rfl, rfl, rfl, rfl⟩

theorem witness_TestPortCommandsNeedTheTestPort :
    (decode ⟨true⟩ 0x0800000000000000 = .ok .status ∧ Instr.isTestPort .status = false) ∧
    (decode ⟨true⟩ 0x0900000000000000 = .ok .keccakF ∧ Instr.isTestPort .keccakF = true) ∧
    (decode ⟨true⟩ 0x0A00000000000018 = .ok (.laneRead 24) ∧ Instr.isTestPort (.laneRead 24) = true) ∧
    decode ⟨true⟩ 0x0A00000000000019 = .error .laneIndex := ⟨⟨rfl, rfl⟩, ⟨rfl, rfl⟩, ⟨rfl, rfl⟩, rfl⟩

theorem witness_XorByteChangesOneByteOfTheView : 0 < 200 ∧ 199 < 200 ∧ 200 ≤ 200 := by decide

theorem witness_InitStartsASessionOrFaults :
    State.reset.flt = false ∧
    ((8#11).toNat + (1592#11).toNat = 1600 ∧ (8#11).toNat % 8 = 0 ∧ (8#11).toNat ≠ 0) ∧
    ((1600#11).toNat + (0#11).toNat = 1600 ∧ (1600#11).toNat % 8 = 0 ∧ (1600#11).toNat ≠ 0) ∧
    ¬ ((0#11).toNat + (1600#11).toNat = 1600 ∧ (0#11).toNat % 8 = 0 ∧ (0#11).toNat ≠ 0) := by
  decide

theorem witness_InitSucceedsForTwoHundredPairs : State.reset.flt = false ∧ session.flt = false := by decide

/-- The middle of a block, its end, and the shortest and longest blocks. -/
theorem witness_AbsorbXorsOneByteAndPermutesAtBlockEnd :
    (session.InSession ∧ session.phase = .absorb ∧ session.absorbed.toNat + 1 ≠ session.rateBytes.toNat) ∧
    (State.InSession { session with absorbed := 135 } ∧ State.phase { session with absorbed := 135 } = .absorb) ∧
    (narrowSession.InSession ∧ narrowSession.phase = .absorb ∧
      narrowSession.absorbed.toNat + 1 = narrowSession.rateBytes.toNat) ∧
    (State.InSession { wideSession with absorbed := 199 } ∧
      State.phase { wideSession with absorbed := 199 } = .absorb) := by
  decide

theorem witness_EmptyAbsorbChangesNothing :
    session.flt = false ∧ session.cfg = true ∧ session.phase = .absorb := by
  decide

theorem witness_OnlyAbsorbHasAPhasePrecondition_order :
    paddedTest.flt = false ∧ paddedTest.cfg = true ∧ paddedTest.phase = .squeeze := by
  decide

theorem witness_OnlyAbsorbHasAPhasePrecondition_only_absorb :
    paddedTest.rsp = none ∧ ∃ t, exec (.absorb true 0) paddedTest = .next t ∧
      decide (t.rsp = some ⟨.order, 0⟩) = true :=
  ⟨rfl, exists_next (by decide +kernel)⟩

/-- Both phases. -/
theorem witness_OnlyAbsorbHasAPhasePrecondition_keystream :
    paddedTest.InSession ∧ paddedTest.phase = .squeeze ∧ session.InSession ∧ session.phase = .absorb := by
  decide

/-- The draws of V24 from session("test") padded: key 5 after five discarded bytes. -/
theorem test_draws_key_5 : DrawsKey 27 paddedTest 5 { paddedTest with squeezed := 6 } :=
  drawKey_key (n := 6) rfl

/-- A character of the alphabet, and a foreign one in both phases. -/
theorem witness_OnlyAbsorbHasAPhasePrecondition_text :
    (paddedTest.InSession ∧ lookup 0x61 paddedTest ≠ none ∧
      DrawsKey paddedTest.alen.toNat paddedTest 5 { paddedTest with squeezed := 6 }) ∧
    lookup 0x21 paddedTest = none ∧ session.InSession ∧ lookup 0x21 session = none :=
  ⟨⟨by decide, by decide +kernel, test_draws_key_5⟩, by decide +kernel, by decide, by decide +kernel⟩

/-- The shortest block, one byte, and the longest. -/
theorem witness_AbsorbingABlockPermutesOnce :
    (narrowSession.InSession ∧ narrowSession.phase = .absorb ∧ narrowSession.absorbed = 0 ∧
      [(0xAA : Byte)].length = narrowSession.rateBytes.toNat) ∧
    (wideSession.InSession ∧ wideSession.phase = .absorb ∧ wideSession.absorbed = 0 ∧
      (List.replicate 200 (0 : Byte)).length = wideSession.rateBytes.toNat) := by
  decide +kernel

/-- One permutation, two permutations (V18, V19), and the phase SQUEEZE. -/
theorem witness_EmptySqueezePadsOnceOrDoesNothing :
    (absorbedTest.InSession ∧ absorbedTest.phase = .absorb ∧ absorbedTest.suffix.getLsbD 7 = false) ∧
    (narrowSession.InSession ∧ narrowSession.phase = .absorb ∧ narrowSession.suffix.getLsbD 7 = true ∧
      narrowSession.absorbed.toNat + 1 = narrowSession.rateBytes.toNat) ∧
    (State.InSession { session with suffix := 0x9F, absorbed := 134 } ∧
      State.phase { session with suffix := 0x9F, absorbed := 134 } = .absorb) ∧
    (paddedTest.flt = false ∧ paddedTest.cfg = true ∧ paddedTest.phase = .squeeze) := by
  decide

/-- The middle of a block, its end, and the shortest block. -/
theorem witness_SqueezeReadsTheNextByte :
    (paddedTest.InSession ∧ paddedTest.phase = .squeeze ∧
      paddedTest.squeezed.toNat + 1 ≠ paddedTest.rateBytes.toNat) ∧
    (State.InSession { paddedTest with squeezed := 135 } ∧
      State.phase { paddedTest with squeezed := 135 } = .squeeze) ∧
    (State.InSession { narrowSession with squeezed := 0 } ∧
      State.phase { narrowSession with squeezed := 0 } = .squeeze) := by
  decide

theorem witness_FirstKeystreamCommandPadsFirst :
    session.InSession ∧ session.phase = .absorb ∧ narrowSession.InSession ∧ narrowSession.phase = .absorb := by
  decide

theorem witness_SqueezingABlockReturnsItsBytes :
    (paddedTest.InSession ∧ paddedTest.phase = .squeeze ∧ paddedTest.squeezed = 0) ∧
    (State.InSession { narrowSession with squeezed := 0 } ∧
      State.phase { narrowSession with squeezed := 0 } = .squeeze) ∧
    (State.InSession { wideSession with squeezed := 0 } ∧
      State.phase { wideSession with squeezed := 0 } = .squeeze) := by
  decide

theorem witness_XorIsSqueezeWithTheInputXored : paddedTest.InSession ∧ session.InSession := by decide

theorem witness_BinaryModeIsSelfInverse :
    paddedTest.InSession ∧ narrowSession.InSession ∧ State.reset.flt = false := by decide

theorem witness_LookupFindsTheLastMatch : State.alen { State.reset with alen := 0 } = 0 := rfl

theorem witness_ModularMapStaysBelowLength :
    (0 < 1 ∧ 1 ≤ 255) ∧ (254 < 255 ∧ 255 ≤ 255) ∧ (0 < 27 ∧ 26 < 27 ∧ 27 ≤ 255) := by decide

theorem witness_ForeignCharacterPassesThrough :
    (session.flt = false ∧ session.cfg = true ∧
      ∀ j, j < session.alen.toNat → session.alpha[j]? ≠ some 0x21) ∧
    (∀ j, j < (State.alen { session with alen := 0 }).toNat → session.alpha[j]? ≠ some 0x61) := by
  decide +kernel

/-- V24, at the first and the last index of the alphabet. -/
theorem witness_TextFollowsTheUnboundedRejectionLoop :
    paddedTest.flt = false ∧ paddedTest.cfg = true ∧ lookup 0x61 paddedTest = some 0 ∧
    lookup 0x20 paddedTest = some 26 ∧
    DrawsKey paddedTest.alen.toNat paddedTest 5 { paddedTest with squeezed := 6 } :=
  ⟨rfl, rfl, by decide +kernel, by decide +kernel, test_draws_key_5⟩

theorem witness_DrawnKeyIsTheFirstByteBelowLength :
    paddedTest.InSession ∧ DrawsKey 27 paddedTest 5 { paddedTest with squeezed := 6 } :=
  ⟨by decide, test_draws_key_5⟩

theorem witness_TextAnswersOrStaysInFlight :
    paddedTest.InSession ∧ paddedTest.rsp = none ∧ session.InSession ∧ session.rsp = none := by decide

theorem witness_TextualModeIsSelfInverse :
    paddedTest.InSession ∧ paddedTest.DistinctSymbols ∧
    ∃ x, runCommands ([(0x61 : CharCode), 0x21].map (.text .encrypt)) paddedTest = some x :=
  ⟨by decide, by
    have h : ∀ i : Fin 27, ∀ j : Fin 27, paddedTest.alpha[i.val]? = paddedTest.alpha[j.val]? → i = j := by
      decide +kernel
    intro i j hi hj hij
    exact congrArg Fin.val (h ⟨i, hi⟩ ⟨j, hj⟩ hij), exists_run (by decide +kernel)⟩

theorem witness_AlphaClearEmptiesTheAlphabet : State.reset.flt = false ∧ paddedTest.flt = false := by decide

/-- The first entry, the last one, and the full table. -/
theorem witness_AlphaAppendAddsOneSymbolOrFaults :
    (State.reset.flt = false ∧ (State.alen { State.reset with alen := 0 } ≠ 255)) ∧
    (State.alen { State.reset with alen := 254 } ≠ 255) ∧
    (State.alen { State.reset with alen := 255 } = 255) := by
  decide

theorem witness_LoadedAlphabetIsTheSymbolList :
    State.reset.flt = false ∧ ([] : List CharCode).length ≤ 255 ∧
    (List.replicate 255 (0x61 : CharCode)).length ≤ 255 ∧
    255 < (List.replicate 256 (0x61 : CharCode)).length := by
  decide +kernel

/-- Two states that differ at the first entry above the default alphabet; a TEXT that draws. -/
theorem witness_UnusedAlphabetEntriesAreUnobservable :
    AgreeOnAlphabet paddedTest { paddedTest with alpha := paddedTest.alpha.set 27 0x41 } ∧
    paddedTest.alpha[27] ≠ (paddedTest.alpha.set 27 0x41)[27] ∧
    ∃ t, exec (.text .encrypt 0x61) paddedTest = .next t ∧ (fun _ => true) t = true :=
  ⟨⟨rfl, by decide +kernel⟩, by decide +kernel, exists_next (by decide +kernel)⟩

/-- Both phases, and the first and the last index. -/
theorem witness_TestPortCommandsReadAndPermuteLanes :
    (wideSession.flt = false ∧ wideSession.cfg = true ∧ wideSession.build.testPort = true ∧
      wideSession.phase = .absorb) ∧
    (paddedTest.flt = false ∧ paddedTest.cfg = true ∧ paddedTest.build.testPort = true ∧
      paddedTest.phase = .squeeze) ∧
    (0#5).toNat < 25 ∧ (24#5).toNat < 25 := by
  decide

theorem witness_FaultedCoreRefusesEverythingButStatus :
    State.flt { session with flt := true, err := 1 } = true ∧ Instr.init 1088 512 0x1F ≠ .status := by decide

theorem witness_PrologueOrdersTheErrors :
    (State.reset.flt = false ∧ Instr.wellFormed State.reset.build (.laneRead 25) = false) ∧
    (State.flt { State.reset with build := ⟨false⟩ } = false ∧ Instr.wellFormed ⟨false⟩ .keccakF = false) ∧
    (State.reset.flt = false ∧ State.reset.cfg = false ∧
      Instr.wellFormed State.reset.build (.laneRead 24) = true) := by
  decide

theorem witness_IllegalWordIsFatal :
    (State.reset.withFetchWord 64 0).inputs = .command 0 :: [] ∧
    (State.reset.withFetchWord 64 0).cmdReady = true ∧
    decode (State.reset.withFetchWord 64 0).build 0 = .error .undefinedOpcode := ⟨rfl, rfl, rfl⟩

theorem witness_FailingCommandChangesOnlyTheFault :
    (State.reset.rsp = none ∧ ∃ t, exec (.squeeze false) State.reset = .next t ∧
      decide (t.rsp = some ⟨.noSession, 0⟩) = true) ∧
    (∃ t, exec .alphaClear { State.reset with flt := true, err := 1 } = .next t ∧
      decide (t.rsp = some ⟨.faulted, 0⟩) = true) ∧ RspCode.noSession ≠ .ok ∧ RspCode.faulted ≠ .ok :=
  ⟨⟨rfl, exists_next (by decide +kernel)⟩, exists_next (by decide +kernel), by decide, by decide⟩

/-- A FAULTED core with INIT at the port. -/
def faultedInit : State := State.withFetchWord { State.reset with flt := true, err := 1 } 64 0x010004400200001F

theorem witness_OnlyResetLeavesFaulted :
    (State.flt faultedInit = true ∧ faultedInit.inputs.head? ≠ some .reset ∧
      ∃ t, step faultedInit = .next t ∧ (fun _ => true) t = true) ∧
    (State.inputs { session with flt := true, err := 4, inputs := [.reset] } = .reset :: []) :=
  ⟨⟨rfl, by decide, exists_next (by decide +kernel)⟩, rfl⟩

theorem witness_EveryCommandAnswersOnce :
    State.reset.rsp = none ∧ ∃ t, exec .status State.reset = .next t ∧ (fun _ => true) t = true :=
  ⟨rfl, exists_next (by decide +kernel)⟩

theorem witness_StepRunsTheDecodedCommand :
    let s := session.withFetchWord 64 0x0200000000000074
    s.inputs = .command 0x0200000000000074 :: [] ∧ s.busy = false ∧ s.rsp = none ∧
      decode s.build 0x0200000000000074 = .ok (.absorb false 0x74) := ⟨rfl, rfl, rfl, rfl⟩

theorem witness_PortHoldsCommandsUntilReady :
    State.reset.inputs = [] ∧
    (State.inputs { session with inputs := [.command 0], rsp := some okNone } = .command 0 :: [] ∧
      State.rsp { session with inputs := [.command 0], rsp := some okNone } ≠ none) ∧
    (State.inputs { session with inputs := [.command 0], busy := true } = .command 0 :: [] ∧
      State.busy { session with inputs := [.command 0], busy := true } = true) ∧
    State.inputs { session with inputs := [.takeResponse], rsp := some okNone } = .takeResponse :: [] :=
  ⟨rfl, ⟨rfl, by decide⟩, ⟨rfl, rfl⟩, rfl⟩

/-- A command in flight, and a FAULTED core. -/
theorem witness_ResetActionRestoresTheResetState :
    State.inputs { paddedTest with busy := true, inputs := [.reset, .command 0] } = .reset :: [.command 0] ∧
    State.inputs { paddedTest with flt := true, err := 4, inputs := [.reset] } = .reset :: [] := ⟨rfl, rfl⟩

theorem witness_OnlyInitWritesTheConfiguration :
    (∃ t, exec (.absorb false 0x74) session = .next t ∧ (fun _ => true) t = true) ∧
    (∀ r c f, Instr.absorb false 0x74 ≠ .init r c f) ∧
    (∃ t, exec .status session = .next t ∧ (fun _ => true) t = true) ∧
    (∀ r c f, Instr.status ≠ .init r c f) ∧ (∀ e b, Instr.status ≠ .absorb e b) :=
  ⟨exists_next (by decide +kernel), by intros; simp, exists_next (by decide +kernel), by intros; simp,
    by intros; simp⟩

theorem witness_OnlyAlphabetCommandsChangeTheAlphabet :
    (∃ t, exec (.init 1088 512 0x1F) State.reset = .next t ∧ (fun _ => true) t = true) ∧
    Instr.init 1088 512 0x1F ≠ .alphaClear ∧ ∀ c, Instr.init 1088 512 0x1F ≠ .alphaAppend c :=
  ⟨exists_next (by decide +kernel), by decide, by intros; simp⟩

theorem witness_WarnIsSticky :
    (∃ t, exec (.init 1088 512 0x1F) { session with warn := true } = .next t ∧ (!t.warn) = true) ∧
    (∃ t, exec (.text .decrypt 0x21) session = .next t ∧ t.warn = true) :=
  ⟨exists_next (by decide +kernel), exists_next (by decide +kernel)⟩

theorem witness_ReadingAndAlphabetCommandsKeepTheSponge :
    (∃ t, exec .alphaClear session = .next t ∧ (fun _ => true) t = true) ∧
    (∃ t, exec (.alphaAppend 0x41) session = .next t ∧ (fun _ => true) t = true) ∧
    (∃ t, exec .status session = .next t ∧ (fun _ => true) t = true) ∧
    (∃ t, exec (.laneRead 24) session = .next t ∧ (fun _ => true) t = true) :=
  ⟨exists_next (by decide +kernel), exists_next (by decide +kernel), exists_next (by decide +kernel),
    exists_next (by decide +kernel)⟩

theorem witness_PhaseIsSingleOrdered :
    (paddedTest.cfg = true ∧ paddedTest.SessionWf ∧ paddedTest.phase = .squeeze ∧
      ∃ t, exec (.init 1088 512 0x1F) paddedTest = .next t ∧ decide (t.phase = .absorb) = true) ∧
    (absorbedTest.cfg = true ∧ absorbedTest.SessionWf ∧ absorbedTest.phase = .absorb ∧
      ∃ t, exec (.squeeze true) absorbedTest = .next t ∧ decide (t.phase = .squeeze) = true) :=
  ⟨⟨rfl, by decide, by decide, exists_next (by decide +kernel)⟩,
    ⟨rfl, by decide, by decide, exists_next (by decide +kernel)⟩⟩

theorem witness_StepKeepsTheInvariant :
    State.Inv (session.withFetchWord 64 0x0200000000000074) ∧
    ∃ t, step (session.withFetchWord 64 0x0200000000000074) = .next t ∧ (fun _ => true) t = true :=
  ⟨by decide +kernel, exists_next (by decide +kernel)⟩

/-- Before a session, in each phase, FAULTED, and with a command in flight. -/
theorem witness_InvariantStatesNeverStop :
    State.reset.Inv ∧ paddedTest.Inv ∧ narrowSession.Inv ∧ State.Inv { session with flt := true, err := 4 } ∧
    State.Inv { paddedTest with busy := true } :=
  ⟨by decide +kernel, by decide +kernel, by decide +kernel, by decide +kernel, by decide +kernel⟩

/-! ### The calls -/

/-- R194: squeeze(0) returns the empty sequence, and squeeze(2) the first two bytes of V13. -/
theorem test_call_squeeze :
    (callSqueeze 0 paddedTest).map (·.1) = some (.returned []) ∧
    (callSqueeze 2 paddedTest).map (·.1) = some (.returned [0xB5, 0x4F]) := by
  decide +kernel

/-- R195: a rate without an encoding is a configuration error of the host, and the core is not touched. -/
theorem test_call_new :
    callNew 2048 0 0x1F State.reset = some (.failed .config, State.reset) ∧
    (callNew 1088 512 0x1F State.reset).map (·.1) = some (.returned ()) := by
  decide +kernel

/-- R192: absorb after a squeeze fails with ERR_ORDER, and the call has no output. -/
theorem test_call_absorb_fails : (callAbsorb [0x41] paddedTest).map (·.1) = some (.failed .order) := by
  decide +kernel

/-- R197: the 256th symbol fails the load. -/
theorem test_call_loadAlphabet_fails :
    (callLoadAlphabet (List.replicate 256 0x61) State.reset).map (·.1) = some (.failed .config) := by
  decide +kernel

/-! ### The tests that run a whole permutation, last because each takes seconds -/

/-- V17 and P1: Pad of session("test"), by SQUEEZE.E. -/
theorem test_squeeze_empty_pads :
    (after (exec (.squeeze true) absorbedTest)).map (fun t => (t.lane, t.squeezed, t.rsp)) =
      some (lanesOfP1, 0, some okNone) := by
  decide +kernel

/-- V1 and V33: the permutation of the zero state, by KECCAK_F. -/
theorem test_keccakF_of_zero : (after (exec .keccakF wideSession)).map (·.lane) = some lanesOfV1 := by
  decide +kernel

/-- The clause about TEXT: a session in phase ABSORB whose TEXT of 'a' is answered, here V24's own first
command, whose first draw pads. -/
theorem witness_FirstKeystreamCommandPadsFirst_text :
    absorbedTest.InSession ∧ absorbedTest.phase = .absorb ∧ lookup 0x61 absorbedTest ≠ none ∧
    absorbedTest.busy = false ∧
    ∃ u, exec (.text .encrypt 0x61) absorbedTest = .next u ∧ (!u.busy) = true :=
  ⟨by decide, by decide, by decide +kernel, rfl, exists_next (by decide +kernel)⟩

/-- P2: binary_cipher of "hello" under the password "test". -/
theorem test_call_binaryCipher :
    (callBinaryCipher [0x74, 0x65, 0x73, 0x74] [0x68, 0x65, 0x6C, 0x6C, 0x6F] State.reset).map (·.1) =
      some (.returned [0xDD, 0x2A, 0x9B, 0x49, 0x38]) := by
  decide +kernel

/-- P3, its first and last characters: textual_cipher of "c!" under the password "k" and the alphabet "abc". The
mismatch flag is set, and the call meets the hypotheses of TextualModeIsSelfInverse. -/
theorem witness_TextualModeIsSelfInverse_call :
    [(0x61 : CharCode), 0x62, 0x63].Nodup ∧
    (callTextualCipher [0x6B] [0x63, 0x21] [0x61, 0x62, 0x63] .encrypt State.reset).map (·.1) =
      some (.returned ([0x61, 0x21], true)) := by
  decide +kernel

end Sys2Proof.Tests
end

section
/-! SUPPORT. Scope of the model (00_scope.md): one step runs one decoded command (R18, R87), the rule of a byte
XOR in the state byte view (R13, R50, R52), and what each command may write (R22 to R35, R42). -/

namespace Sys2Proof.Machine

/-! ### The port -/

/-- The port is ready exactly when no command is in flight and no response waits (R87). -/
theorem cmdReady_iff (s : State) : s.cmdReady = true ↔ s.busy = false ∧ s.rsp = none := by
  simp [State.cmdReady]

/-- A step on a ready port, with a legal word as the host's next action (R18, R87). -/
theorem step_command_of_decode_ok {s : State} {w : Word} {rest : List PortInput} {i : Instr}
    (hin : s.inputs = .command w :: rest) (hready : s.cmdReady = true) (hdec : decode s.build w = .ok i) :
    step s = exec i { s with inputs := rest } := by
  simp only [step, hin, hready, hdec, if_true]

/-- Settles O48: the port is ready, so the step is the one of `step_command_of_decode_ok`. -/
theorem stepRunsTheDecodedCommand : Obligations.StepRunsTheDecodedCommand := by
  intro s w rest i hin hbusy hrsp hdec
  exact step_command_of_decode_ok hin ((cmdReady_iff s).2 ⟨hbusy, hrsp⟩) hdec

/-! ### Bytes of a lane -/

theorem getLsbD_laneByte (v : Word) (j : Nat) {k : Nat} (hk : k < 8) :
    (laneByte v j).getLsbD k = v.getLsbD (8 * j + k) := by
  simp [laneByte, hk]

/-- A byte of a XOR of lanes is the XOR of the bytes. -/
theorem laneByte_xor (v w : Word) (j : Nat) : laneByte (v ^^^ w) j = laneByte v j ^^^ laneByte w j := by
  simp [laneByte, BitVec.ushiftRight_xor_distrib]

/-- A byte placed at position `j` of a lane, as `stateXorByte` does, is read back at position `j` and is 0 at
every other position (R50, R52). -/
theorem laneByte_shiftLeft (v : Byte) {i j : Nat} (hj : j < 8) :
    laneByte (v.setWidth 64 <<< (8 * i)) j = if j = i then v else 0 := by
  apply BitVec.eq_of_getLsbD_eq
  intro k hk
  rw [getLsbD_laneByte _ _ hk, BitVec.getLsbD_shiftLeft, BitVec.getLsbD_setWidth]
  split
  · next h =>
    subst h
    simp [show 8 * j + k < 64 by omega, show k < 64 by omega]
  · next h =>
    by_cases hlt : 8 * j + k < 8 * i
    · simp [hlt]
    · simp [BitVec.getLsbD_of_ge v (8 * j + k - 8 * i) (by omega)]

/-! ### A byte XOR in the state byte view -/

/-- A byte can be read exactly at the addresses of the view (R50). -/
theorem stateByte_isOk_iff (a : Nat) (s : State) : (∃ x, stateByte a s = .ok x) ↔ a < 200 := by
  constructor
  · rintro ⟨x, hx⟩
    by_contra ha
    rw [stateByte_of_ge s (Nat.not_lt.1 ha)] at hx
    cases hx
  · intro ha
    exact ⟨_, stateByte_of_lt s ha⟩

/-- The byte at `a` after a byte XOR at `i`: addresses agree exactly when both the lane and the position in it
do, so only the byte at `i` changes (R50, R52). -/
theorem stateByte_of_stateXorByte {i : Nat} {v : Byte} {s t : State} (h : stateXorByte i v s = .ok t)
    (a : Nat) : stateByte a t = if a = i then (stateByte a s).map (· ^^^ v) else stateByte a s := by
  obtain ⟨hi, -⟩ := stateXorByte_ok h
  rw [stateXorByte_of_lt v s hi] at h
  cases h
  by_cases ha : a < 200
  · rw [stateByte_of_lt _ ha, stateByte_of_lt s ha, Vector.getElem_set]
    by_cases hlane : i / 8 = a / 8
    · have hpos : a % 8 = i % 8 ↔ a = i := by omega
      rw [if_pos hlane, laneByte_xor, laneByte_shiftLeft v (Nat.mod_lt a (by decide))]
      simp only [hlane, hpos]
      split <;> simp [Except.map]
    · rw [if_neg hlane, if_neg (fun e => hlane (by rw [e]))]
  · have hge := Nat.not_lt.1 ha
    rw [if_neg (by omega), stateByte_of_ge _ hge, stateByte_of_ge s hge]

/-- Settles O16: which addresses exist, `stateByte_of_stateXorByte` inside the view, and the fault outside. -/
theorem xorByteChangesOneByteOfTheView : Obligations.XorByteChangesOneByteOfTheView := by
  refine ⟨fun s a => stateByte_isOk_iff a s, fun s i v hi => ?_, fun s i v hi => stateXorByte_of_ge v s hi⟩
  obtain ⟨L, hL⟩ := stateXorByte_total v s hi
  exact ⟨L, hL, stateByte_of_stateXorByte hL⟩

/-! ### What each command may write

Each equation lists every field that the command can change; the fields it does not list keep their values. A
prologue that ends a command writes FLT, ERR and the response (R213, R215), so these are in every list but
STATUS's. -/

/-- A prologue that ends the command writes FLT, ERR and the response, and nothing else (R213, R215). -/
theorem check_frame {d : Option Instr} {n : Bool} {s t : State} (h : check d n s = some t) :
    t = { s with flt := t.flt, err := t.err, rsp := t.rsp } := by
  obtain ⟨-, -, rfl⟩ | ⟨-, -, rfl⟩ | ⟨-, -, -, -, rfl⟩ := check_eq_some d n s t h <;> rfl

/-- STATUS passes its prologue in every state, so it is its response (R190, R216). -/
theorem execStatus_eq (s : State) : execStatus s = .next (respond .ok (statusWord s) s) := by
  have hpass : check (some .status) false s = none :=
    (check_eq_none_iff .status false s).2 ⟨.inr rfl, by simp [Instr.wellFormed, Instr.laneIndexOk,
      Instr.isTestPort], by simp⟩
  simp only [execStatus, hpass]

section
variable {s t : State}

theorem execInit_frame {rate cap : BitVec 11} {sfx : Byte} (h : execInit rate cap sfx s = .next t) :
    t = { s with
      lane := t.lane, cfg := t.cfg, rateBytes := t.rateBytes, suffix := t.suffix, absorbed := t.absorbed
      squeezed := t.squeezed, warn := t.warn, flt := t.flt, err := t.err, rsp := t.rsp } := by
  unfold execInit at h
  split at h
  · next hc => cases h; rw [check_frame hc]
  · split at h <;> (cases h; rfl)

theorem execAbsorb_frame {e : Bool} {b : Byte} (h : execAbsorb e b s = .next t) :
    t = { s with lane := t.lane, absorbed := t.absorbed, flt := t.flt, err := t.err, rsp := t.rsp } := by
  unfold execAbsorb at h
  split at h
  · next hc => cases h; rw [check_frame hc]
  · split at h
    · cases h; rfl
    · split at h
      · cases h; rfl
      · split at h
        · next ha => cases h; rw [(absorbByte_ok ha).2]; rfl
        · cases h

/-- SQUEEZE.E writes the lanes and `squeezed`, by Pad, or nothing (R142). -/
theorem closeAbsorbPhase_frame (h : closeAbsorbPhase s = .ok t) :
    t = { s with lane := t.lane, squeezed := t.squeezed } := by
  unfold closeAbsorbPhase at h
  split at h
  · rw [pad_ok h]
  · cases h; rfl

theorem execSqueeze_frame {e : Bool} (h : execSqueeze e s = .next t) :
    t = { s with lane := t.lane, squeezed := t.squeezed, flt := t.flt, err := t.err, rsp := t.rsp } := by
  unfold execSqueeze at h
  split at h
  · next hc => cases h; rw [check_frame hc]
  · split at h
    · split at h
      · next hp => cases h; rw [closeAbsorbPhase_frame hp]; rfl
      · cases h
    · split at h
      · next hq => cases h; rw [squeezeByte_frame hq]; rfl
      · cases h

theorem execXor_frame {b : Byte} (h : execXor b s = .next t) :
    t = { s with lane := t.lane, squeezed := t.squeezed, flt := t.flt, err := t.err, rsp := t.rsp } := by
  unfold execXor at h
  split at h
  · next hc => cases h; rw [check_frame hc]
  · split at h
    · next hq => cases h; rw [squeezeByte_frame hq]; rfl
    · cases h

theorem execText_frame {d : Direction} {c : CharCode} (h : execText d c s = .next t) :
    t = { s with
      lane := t.lane, squeezed := t.squeezed, warn := t.warn, flt := t.flt, err := t.err, busy := t.busy
      rsp := t.rsp } := by
  unfold execText at h
  split at h
  · next hc => cases h; rw [check_frame hc]
  · split at h
    · cases h; rfl
    · split at h
      · next hk => cases h; rw [(drawsKey_frame (drawKey_key hk)).2]; rfl
      · cases h; rfl
      · cases h

theorem execAlphaClear_frame (h : execAlphaClear s = .next t) :
    t = { s with alen := t.alen, flt := t.flt, err := t.err, rsp := t.rsp } := by
  unfold execAlphaClear at h
  split at h
  · next hc => cases h; rw [check_frame hc]
  · cases h; rfl

theorem execAlphaAppend_frame {c : CharCode} (h : execAlphaAppend c s = .next t) :
    t = { s with alpha := t.alpha, alen := t.alen, flt := t.flt, err := t.err, rsp := t.rsp } := by
  unfold execAlphaAppend at h
  split at h
  · next hc => cases h; rw [check_frame hc]
  · split at h <;> (cases h; rfl)

theorem execStatus_frame (h : execStatus s = .next t) : t = { s with rsp := t.rsp } := by
  rw [execStatus_eq] at h
  cases h
  rfl

theorem execKeccakF_frame (h : execKeccakF s = .next t) :
    t = { s with lane := t.lane, flt := t.flt, err := t.err, rsp := t.rsp } := by
  unfold execKeccakF at h
  split at h
  · next hc => cases h; rw [check_frame hc]
  · cases h; rfl

theorem execLaneRead_frame {idx : BitVec 5} (h : execLaneRead idx s = .next t) :
    t = { s with flt := t.flt, err := t.err, rsp := t.rsp } := by
  unfold execLaneRead at h
  split at h
  · next hc => cases h; rw [check_frame hc]
  · cases h; rfl

/-- No command writes the build (R8, R42) or the host's next actions (assumption log 1). -/
theorem exec_keeps_build_and_inputs {i : Instr} (h : exec i s = .next t) :
    t = { t with build := s.build, inputs := s.inputs } := by
  cases i with
  | init rate cap sfx => rw [execInit_frame h]
  | absorb e b => rw [execAbsorb_frame h]
  | squeeze e => rw [execSqueeze_frame h]
  | xor b => rw [execXor_frame h]
  | text d c => rw [execText_frame h]
  | alphaClear => rw [execAlphaClear_frame h]
  | alphaAppend c => rw [execAlphaAppend_frame h]
  | status => rw [execStatus_frame h]
  | keccakF => rw [execKeccakF_frame h]
  | laneRead idx => rw [execLaneRead_frame h]

/-- The commands that only read, or write only the alphabet, keep the sponge: its lanes and its two counters
(R22, R26, R27). -/
theorem exec_keeps_sponge {i : Instr} (h : exec i s = .next t)
    (hi : i = .alphaClear ∨ (∃ c, i = .alphaAppend c) ∨ i = .status ∨ ∃ idx, i = .laneRead idx) :
    t.lane = s.lane ∧ t.squeezed = s.squeezed ∧ t.absorbed = s.absorbed := by
  obtain rfl | ⟨c, rfl⟩ | rfl | ⟨idx, rfl⟩ := hi
  · rw [execAlphaClear_frame h]; exact ⟨rfl, rfl, rfl⟩
  · rw [execAlphaAppend_frame h]; exact ⟨rfl, rfl, rfl⟩
  · rw [execStatus_frame h]; exact ⟨rfl, rfl, rfl⟩
  · rw [execLaneRead_frame h]; exact ⟨rfl, rfl, rfl⟩

end

/-- Settles O55, from the list of fields that each command may write. -/
theorem readingAndAlphabetCommandsKeepTheSponge : Obligations.ReadingAndAlphabetCommandsKeepTheSponge := by
  intro s t i h
  have hframe := exec_keeps_build_and_inputs h
  have hinputs : t.inputs = s.inputs := by rw [hframe]
  have hbuild : t.build = s.build := by rw [hframe]
  exact ⟨hinputs, hbuild, exec_keeps_sponge h⟩

end Sys2Proof.Machine
end

section
/-! SUPPORT. State (10_state.md): what each command can do, said once, then which elements of the record a command
may change (R23 to R26, R29, R31, R35) and the invariant that every step keeps (R24 to R29, R33, R85, R252). -/

namespace Sys2Proof.Machine

section
variable {s t : State}

/-! ### What each command can do

Either the prologue ends the command (R215), or it passes and one of the command's own cases holds. -/

theorem execInit_cases {rate cap : BitVec 11} {sfx : Byte} (h : execInit rate cap sfx s = .next t) :
    check (some (.init rate cap sfx)) false s = some t ∨
    check (some (.init rate cap sfx)) false s = none ∧
      ((configLegal rate cap = true ∧ t = respond .ok 0 (startSession rate sfx s)) ∨
        (configLegal rate cap = false ∧ t = fatal .config s)) := by
  unfold execInit at h
  split at h
  · next hc => cases h; exact .inl hc
  · next hc =>
    refine .inr ⟨hc, ?_⟩
    split at h
    · next hl => cases h; exact .inl ⟨hl, rfl⟩
    · next hl => cases h; exact .inr ⟨by simpa using hl, rfl⟩

theorem execAbsorb_cases {e : Bool} {b : Byte} (h : execAbsorb e b s = .next t) :
    check (some (.absorb e b)) true s = some t ∨
    check (some (.absorb e b)) true s = none ∧
      ((s.phase = .squeeze ∧ t = fatal .order s) ∨
        (s.phase ≠ .squeeze ∧ e = true ∧ t = respond .ok 0 s) ∨
        (s.phase ≠ .squeeze ∧ e = false ∧ ∃ u, absorbByte b s = .ok u ∧ t = respond .ok 0 u)) := by
  unfold execAbsorb at h
  split at h
  · next hc => cases h; exact .inl hc
  · next hc =>
    refine .inr ⟨hc, ?_⟩
    split at h
    · next hp => cases h; exact .inl ⟨hp, rfl⟩
    · next hp =>
      split at h
      · next he => cases h; exact .inr (.inl ⟨hp, he, rfl⟩)
      · next he =>
        split at h
        · next u hu => cases h; exact .inr (.inr ⟨hp, by simpa using he, u, hu, rfl⟩)
        · cases h

theorem execSqueeze_cases {e : Bool} (h : execSqueeze e s = .next t) :
    check (some (.squeeze e)) true s = some t ∨
    check (some (.squeeze e)) true s = none ∧
      ((e = true ∧ ∃ u, closeAbsorbPhase s = .ok u ∧ t = respond .ok 0 u) ∨
        (e = false ∧ ∃ k u, squeezeByte s = .ok (k, u) ∧ t = respond .ok (byteData k) u)) := by
  unfold execSqueeze at h
  split at h
  · next hc => cases h; exact .inl hc
  · next hc =>
    refine .inr ⟨hc, ?_⟩
    split at h
    · next he =>
      split at h
      · next u hu => cases h; exact .inl ⟨he, u, hu, rfl⟩
      · cases h
    · next he =>
      split at h
      · next k u hu => cases h; exact .inr ⟨by simpa using he, k, u, hu, rfl⟩
      · cases h

theorem execXor_cases {b : Byte} (h : execXor b s = .next t) :
    check (some (.xor b)) true s = some t ∨
    check (some (.xor b)) true s = none ∧
      ∃ k u, squeezeByte s = .ok (k, u) ∧ t = respond .ok (byteData (b ^^^ k)) u := by
  unfold execXor at h
  split at h
  · next hc => cases h; exact .inl hc
  · next hc =>
    split at h
    · next k u hu => cases h; exact .inr ⟨hc, k, u, hu, rfl⟩
    · cases h

theorem execText_cases {d : Direction} {c : CharCode} (h : execText d c s = .next t) :
    check (some (.text d c)) true s = some t ∨
    check (some (.text d c)) true s = none ∧
      ((lookup c s = none ∧ t = respond .ok (passthroughData c) { s with warn := true }) ∨
        ∃ i, lookup c s = some i ∧
          ((∃ k u, drawKey s.alen.toNat drawBound s = .key k u ∧
              t = respond .ok (symbolData (symbolAt s (shiftIndex d s.alen.toNat i k.toNat))) u) ∨
            (drawKey s.alen.toNat drawBound s = .none ∧ t = { s with busy := true }))) := by
  unfold execText at h
  split at h
  · next hc => cases h; exact .inl hc
  · next hc =>
    refine .inr ⟨hc, ?_⟩
    split at h
    · next hl => cases h; exact .inl ⟨hl, rfl⟩
    · next i hl =>
      refine .inr ⟨i, hl, ?_⟩
      split at h
      · next k u hk => cases h; exact .inl ⟨k, u, hk, rfl⟩
      · next hk => cases h; exact .inr ⟨hk, rfl⟩
      · cases h

theorem execAlphaClear_cases (h : execAlphaClear s = .next t) :
    check (some .alphaClear) false s = some t ∨
    check (some .alphaClear) false s = none ∧ t = respond .ok 0 { s with alen := 0 } := by
  unfold execAlphaClear at h
  split at h
  · next hc => cases h; exact .inl hc
  · next hc => cases h; exact .inr ⟨hc, rfl⟩

theorem execAlphaAppend_cases {c : CharCode} (h : execAlphaAppend c s = .next t) :
    check (some (.alphaAppend c)) false s = some t ∨
    check (some (.alphaAppend c)) false s = none ∧
      ((∃ hlt : s.alen.toNat < 255,
          t = respond .ok 0 { s with alpha := s.alpha.set s.alen.toNat c hlt, alen := s.alen + 1 }) ∨
        (255 ≤ s.alen.toNat ∧ t = fatal .config s)) := by
  unfold execAlphaAppend at h
  split at h
  · next hc => cases h; exact .inl hc
  · next hc =>
    refine .inr ⟨hc, ?_⟩
    split at h
    · next hlt => cases h; exact .inl ⟨hlt, rfl⟩
    · next hfull => cases h; exact .inr ⟨Nat.not_lt.1 hfull, rfl⟩

theorem execKeccakF_cases (h : execKeccakF s = .next t) :
    check (some .keccakF) true s = some t ∨
    check (some .keccakF) true s = none ∧ t = respond .ok 0 (permute s) := by
  unfold execKeccakF at h
  split at h
  · next hc => cases h; exact .inl hc
  · next hc => cases h; exact .inr ⟨hc, rfl⟩

theorem execLaneRead_cases {idx : BitVec 5} (h : execLaneRead idx s = .next t) :
    check (some (.laneRead idx)) true s = some t ∨
    check (some (.laneRead idx)) true s = none ∧ t = respond .ok s.lane[Fin.ofNat 25 idx.toNat] s := by
  unfold execLaneRead at h
  split at h
  · next hc => cases h; exact .inl hc
  · next hc => cases h; exact .inr ⟨hc, rfl⟩

/-! ### Which elements a command may change -/

/-- A keystream command: SQUEEZE, XOR or TEXT (R29, R130). -/
def IsKeystream (i : Instr) : Prop :=
  (∃ e, i = .squeeze e) ∨ (∃ b, i = .xor b) ∨ ∃ d c, i = .text d c

/-- The writers of the session's elements and of the alphabet, element by element (R23 to R27, R31, R35): every other
command keeps the element. -/
theorem exec_writers {i : Instr} (h : exec i s = .next t) :
    ((∀ r c f, i ≠ .init r c f) →
      (t.cfg = s.cfg ∧ t.rateBytes = s.rateBytes ∧ t.suffix = s.suffix) ∧
      ((∀ e b, i ≠ .absorb e b) → t.absorbed = s.absorbed) ∧
      (¬ IsKeystream i → t.squeezed = s.squeezed) ∧
      ((∀ d c, i ≠ .text d c) → t.warn = s.warn)) ∧
    (i ≠ .alphaClear → (∀ c, i ≠ .alphaAppend c) → t.alpha = s.alpha ∧ t.alen = s.alen) := by
  cases i with
  | init rate cap sfx => rw [execInit_frame h]; simp
  | absorb e b => rw [execAbsorb_frame h]; simp
  | squeeze e => rw [execSqueeze_frame h]; simp [IsKeystream]
  | xor b => rw [execXor_frame h]; simp [IsKeystream]
  | text d c => rw [execText_frame h]; simp [IsKeystream]
  | alphaClear => rw [execAlphaClear_frame h]; simp
  | alphaAppend c => rw [execAlphaAppend_frame h]; simp
  | status => rw [execStatus_frame h]; simp
  | keccakF => rw [execKeccakF_frame h]; simp
  | laneRead idx => rw [execLaneRead_frame h]; simp

/-- INIT clears WARN or, where it fails, keeps it (R31, R131). -/
theorem execInit_warn {rate cap : BitVec 11} {sfx : Byte} (h : execInit rate cap sfx s = .next t) :
    t.warn = s.warn ∨ t.warn = false := by
  obtain hc | ⟨-, ⟨-, rfl⟩ | ⟨-, rfl⟩⟩ := execInit_cases h
  · rw [check_frame hc]; exact .inl rfl
  · exact .inr rfl
  · exact .inl rfl

/-- TEXT sets WARN or keeps it (R31, R168). -/
theorem execText_warn {d : Direction} {c : CharCode} (h : execText d c s = .next t) :
    t.warn = s.warn ∨ t.warn = true := by
  obtain hc | ⟨-, ⟨-, rfl⟩ | ⟨i, -, ⟨k, u, hk, rfl⟩ | ⟨-, rfl⟩⟩⟩ := execText_cases h
  · rw [check_frame hc]; exact .inl rfl
  · exact .inr rfl
  · rw [(drawsKey_frame (drawKey_key hk)).2]; exact .inl rfl
  · exact .inl rfl

/-! ### The sponge's procedures in a well-formed session -/

theorem absorbByte_in_session {b : Byte} (hw : s.SessionWf) (h : absorbByte b s = .ok t) :
    ∃ L a, t = { s with lane := L, absorbed := a } ∧ a.toNat < s.rateBytes.toNat := by
  obtain ⟨L, a, hok, ha⟩ := absorbByte_total b hw
  rw [hok] at h
  cases h
  exact ⟨L, a, rfl, ha⟩

theorem squeezeByte_in_session {k : Byte} (hw : s.SessionWf) (h : squeezeByte s = .ok (k, t)) :
    ∃ L q, t = { s with lane := L, squeezed := q } ∧ q.toNat < s.rateBytes.toNat := by
  obtain ⟨k', L, q, hok, hq⟩ := squeezeByte_total hw
  rw [hok] at h
  cases h
  exact ⟨L, q, rfl, hq⟩

theorem drawKey_in_session {L n : Nat} {k : Byte} (hw : s.SessionWf) (h : drawKey L n s = .key k t) :
    ∃ M q, t = { s with lane := M, squeezed := q } ∧ q.toNat < s.rateBytes.toNat := by
  obtain hnone | ⟨k', M, q, hkey, hq⟩ := @drawKey_total L n s hw
  · rw [hnone] at h; cases h
  · rw [hkey] at h
    cases h
    exact ⟨M, q, rfl, hq⟩

/-- A session in phase SQUEEZE (R28). -/
theorem phase_eq_squeeze_iff (s : State) : s.phase = .squeeze ↔ s.cfg = true ∧ s.squeezed ≠ s.rateBytes := by
  simp [State.phase]

/-- SQUEEZE.E leaves a session in phase SQUEEZE, whichever it was in (R29, R142). -/
theorem closeAbsorbPhase_in_session (hw : s.SessionWf) (h : closeAbsorbPhase s = .ok t) :
    ∃ L q, t = { s with lane := L, squeezed := q } ∧ q.toNat < s.rateBytes.toNat := by
  obtain ⟨hpos, -, -, hle⟩ := hw
  unfold closeAbsorbPhase at h
  split at h
  · exact ⟨t.lane, 0, pad_ok h, hpos⟩
  · next hp =>
    cases h
    have hne : s.squeezed ≠ s.rateBytes := fun heq => hp (by simp [State.phase, heq])
    exact ⟨s.lane, s.squeezed, rfl, lt_of_le_of_ne hle fun heq => hne (BitVec.eq_of_toNat_eq heq)⟩

/-! ### The phase -/

/-- A session that has squeezed below the rate is in phase SQUEEZE (R28). -/
theorem phase_of_squeezed_lt (hcfg : s.cfg = true) (hq : s.squeezed.toNat < s.rateBytes.toNat) :
    s.phase = .squeeze :=
  (phase_eq_squeeze_iff s).2 ⟨hcfg, fun heq => by rw [heq] at hq; exact lt_irrefl _ hq⟩

/-- A prologue that ends the command keeps the phase. -/
theorem check_keeps_phase {d : Option Instr} {n : Bool} (h : check d n s = some t) : t.phase = s.phase := by
  rw [check_frame h]; rfl

/-- INIT starts in phase ABSORB or, where it fails, keeps the phase (R29, R131). -/
theorem execInit_phase {rate cap : BitVec 11} {sfx : Byte} (h : execInit rate cap sfx s = .next t) :
    t.phase = s.phase ∨ t.phase = .absorb := by
  obtain hc | ⟨-, ⟨-, rfl⟩ | ⟨-, rfl⟩⟩ := execInit_cases h
  · exact .inl (check_keeps_phase hc)
  · exact .inr (by simp [State.phase])
  · exact .inl rfl

/-- In a session, a keystream command keeps the phase or ends in phase SQUEEZE (R29). -/
theorem exec_keystream_phase {i : Instr} (hcfg : s.cfg = true) (hw : s.SessionWf) (h : exec i s = .next t)
    (hkey : IsKeystream i) : t.phase = s.phase ∨ t.phase = .squeeze := by
  obtain ⟨e, rfl⟩ | ⟨b, rfl⟩ | ⟨d, c, rfl⟩ := hkey
  · obtain hc | ⟨-, ⟨-, u, hu, rfl⟩ | ⟨-, k, u, hu, rfl⟩⟩ := execSqueeze_cases h
    · exact .inl (check_keeps_phase hc)
    · obtain ⟨L, q, rfl, hq⟩ := closeAbsorbPhase_in_session hw hu
      exact .inr (phase_of_squeezed_lt hcfg hq)
    · obtain ⟨L, q, rfl, hq⟩ := squeezeByte_in_session hw hu
      exact .inr (phase_of_squeezed_lt hcfg hq)
  · obtain hc | ⟨-, k, u, hu, rfl⟩ := execXor_cases h
    · exact .inl (check_keeps_phase hc)
    · obtain ⟨L, q, rfl, hq⟩ := squeezeByte_in_session hw hu
      exact .inr (phase_of_squeezed_lt hcfg hq)
  · obtain hc | ⟨-, ⟨-, rfl⟩ | ⟨i, -, ⟨k, u, hk, rfl⟩ | ⟨-, rfl⟩⟩⟩ := execText_cases h
    · exact .inl (check_keeps_phase hc)
    · exact .inl rfl
    · obtain ⟨L, q, rfl, hq⟩ := drawKey_in_session hw hk
      exact .inr (phase_of_squeezed_lt hcfg hq)
    · exact .inl rfl

/-- A command that is neither INIT nor a keystream command keeps the phase (R29). -/
theorem exec_keeps_phase {i : Instr} (h : exec i s = .next t) (hinit : ∀ r c f, i ≠ .init r c f)
    (hkey : ¬ IsKeystream i) : t.phase = s.phase := by
  obtain ⟨hwriters, -⟩ := exec_writers h
  obtain ⟨⟨hcfg, hrate, -⟩, -, hsqueezed, -⟩ := hwriters hinit
  simp only [State.phase, hcfg, hrate, hsqueezed hkey]

/-! ### The invariant -/

/-- The codes that the fatal-error entry stores in ERR are 1 to 4 (R33, R84). -/
theorem rspCode_bits_of_stored (code : RspCode) (hok : code ≠ .ok) (hfaulted : code ≠ .faulted) :
    code.bits ≠ 0 ∧ code.bits.toNat ≤ 4 := by
  cases code with
  | ok => exact absurd rfl hok
  | faulted => exact absurd rfl hfaulted
  | illegal => decide
  | noSession => decide
  | config => decide
  | order => decide

/-- A fatal error keeps the invariant: it sets FLT with ERR and answers with data 0 (R213). -/
theorem fatal_inv {code : RspCode} (hi : s.Inv) (hbusy : s.busy = false) (hok : code ≠ .ok)
    (hfaulted : code ≠ .faulted) : (fatal code s).Inv := by
  obtain ⟨hsession, hnone, -, -⟩ := hi
  obtain ⟨hne, hle⟩ := rspCode_bits_of_stored code hok hfaulted
  exact ⟨hsession, hnone, ⟨⟨fun _ => hne, fun _ => rfl⟩, hle⟩, by simp, by simp [hbusy]⟩

theorem respond_ok_inv (x : Word) (hi : s.Inv) (hbusy : s.busy = false) : (respond .ok x s).Inv := by
  obtain ⟨hsession, hnone, herr, -⟩ := hi
  exact ⟨hsession, hnone, herr, by simp, by simp [hbusy]⟩

/-- The answer of a FAULTED core (R216). -/
theorem respond_faulted_inv (hi : s.Inv) (hbusy : s.busy = false) (hflt : s.flt = true) :
    (respond .faulted 0 s).Inv := by
  obtain ⟨hsession, hnone, herr, -⟩ := hi
  exact ⟨hsession, hnone, herr, by simp [hflt], by simp [hbusy]⟩

theorem check_inv {d : Option Instr} {n : Bool} (hi : s.Inv) (hbusy : s.busy = false)
    (h : check d n s = some t) : t.Inv := by
  obtain ⟨hflt, -, rfl⟩ | ⟨-, -, rfl⟩ | ⟨-, -, -, -, rfl⟩ := check_eq_some d n s t h
  · exact respond_faulted_inv hi hbusy hflt
  · exact fatal_inv hi hbusy (by decide) (by decide)
  · exact fatal_inv hi hbusy (by decide) (by decide)

/-- What a command of a session writes of the sponge and WARN keeps the invariant if the counters stay in their
ranges. -/
theorem session_write_inv {L : Lanes} {a q : Byte} {w : Bool} (hi : s.Inv) (hcfg : s.cfg = true)
    (ha : a.toNat < s.rateBytes.toNat) (hq : q.toNat ≤ s.rateBytes.toNat) :
    State.Inv { s with lane := L, absorbed := a, squeezed := q, warn := w } := by
  obtain ⟨hsession, -, herr, hport⟩ := hi
  obtain ⟨hpos, hmax, -, -⟩ := hsession hcfg
  refine ⟨fun _ => ⟨hpos, hmax, ha, hq⟩, fun hno => ?_, herr, hport⟩
  rw [show s.cfg = false from hno] at hcfg
  cases hcfg

/-- INIT's check puts rate_bytes in 1 to 200 (R24, R131). -/
theorem rateBytesOf_bounds {rate cap : BitVec 11} (h : configLegal rate cap = true) :
    1 ≤ (rateBytesOf rate).toNat ∧ (rateBytesOf rate).toNat ≤ 200 := by
  simp only [configLegal, Bool.and_eq_true, decide_eq_true_eq] at h
  obtain ⟨⟨hsum, hmod⟩, hne⟩ := h
  simp only [rateBytesOf, BitVec.toNat_ofNat]
  omega

theorem startSession_inv {rate cap : BitVec 11} (sfx : Byte) (hi : s.Inv) (h : configLegal rate cap = true)
    (hbusy : s.busy = false) : (startSession rate sfx s).Inv := by
  obtain ⟨-, -, herr, hrsp, -⟩ := hi
  obtain ⟨hpos, hmax⟩ := rateBytesOf_bounds h
  exact ⟨fun _ => ⟨hpos, hmax, hpos, le_refl _⟩, by simp, herr, hrsp, by simp [hbusy]⟩

/-- The prologue of a session command passes only in a session (R215). -/
theorem cfg_of_check_eq_none {i : Instr} (h : check (some i) true s = none) : s.cfg = true := by
  obtain ⟨-, -, hsession⟩ := (check_eq_none_iff i true s).1 h
  exact hsession rfl

theorem execInit_inv {rate cap : BitVec 11} {sfx : Byte} (hi : s.Inv) (hbusy : s.busy = false)
    (h : execInit rate cap sfx s = .next t) : t.Inv := by
  obtain hc | ⟨-, ⟨hl, rfl⟩ | ⟨-, rfl⟩⟩ := execInit_cases h
  · exact check_inv hi hbusy hc
  · exact respond_ok_inv 0 (startSession_inv sfx hi hl hbusy) hbusy
  · exact fatal_inv hi hbusy (by decide) (by decide)

theorem execAbsorb_inv {e : Bool} {b : Byte} (hi : s.Inv) (hbusy : s.busy = false)
    (h : execAbsorb e b s = .next t) : t.Inv := by
  obtain hc | ⟨hc, ⟨-, rfl⟩ | ⟨-, -, rfl⟩ | ⟨-, -, u, hu, rfl⟩⟩ := execAbsorb_cases h
  · exact check_inv hi hbusy hc
  · exact fatal_inv hi hbusy (by decide) (by decide)
  · exact respond_ok_inv 0 hi hbusy
  · have hcfg := cfg_of_check_eq_none hc
    have hw := hi.1 hcfg
    obtain ⟨L, a, rfl, ha⟩ := absorbByte_in_session hw hu
    obtain ⟨-, -, -, hsq⟩ := hw
    exact respond_ok_inv 0 (session_write_inv hi hcfg ha hsq) hbusy

/-- A write of lanes and `squeezed` in a session, as every keystream command makes it. -/
theorem keystream_write_inv {L : Lanes} {q : Byte} (hi : s.Inv) (hcfg : s.cfg = true)
    (hq : q.toNat < s.rateBytes.toNat) : State.Inv { s with lane := L, squeezed := q } := by
  obtain ⟨-, -, hab, -⟩ := hi.1 hcfg
  exact session_write_inv hi hcfg hab (Nat.le_of_lt hq)

theorem execSqueeze_inv {e : Bool} (hi : s.Inv) (hbusy : s.busy = false) (h : execSqueeze e s = .next t) :
    t.Inv := by
  obtain hc | ⟨hc, hrun⟩ := execSqueeze_cases h
  · exact check_inv hi hbusy hc
  · have hcfg := cfg_of_check_eq_none hc
    obtain ⟨-, u, hu, rfl⟩ | ⟨-, k, u, hu, rfl⟩ := hrun
    · obtain ⟨L, q, rfl, hq⟩ := closeAbsorbPhase_in_session (hi.1 hcfg) hu
      exact respond_ok_inv 0 (keystream_write_inv hi hcfg hq) hbusy
    · obtain ⟨L, q, rfl, hq⟩ := squeezeByte_in_session (hi.1 hcfg) hu
      exact respond_ok_inv _ (keystream_write_inv hi hcfg hq) hbusy

theorem execXor_inv {b : Byte} (hi : s.Inv) (hbusy : s.busy = false) (h : execXor b s = .next t) : t.Inv := by
  obtain hc | ⟨hc, k, u, hu, rfl⟩ := execXor_cases h
  · exact check_inv hi hbusy hc
  · have hcfg := cfg_of_check_eq_none hc
    obtain ⟨L, q, rfl, hq⟩ := squeezeByte_in_session (hi.1 hcfg) hu
    exact respond_ok_inv _ (keystream_write_inv hi hcfg hq) hbusy

/-- A TEXT in flight passed its checks, so a session exists and the core is not FAULTED (R83, R164). -/
theorem text_in_flight_inv {d : Direction} {c : CharCode} (hi : s.Inv) (hrsp : s.rsp = none)
    (hc : check (some (.text d c)) true s = none) : State.Inv { s with busy := true } := by
  have hcfg := cfg_of_check_eq_none hc
  obtain ⟨hsession, hnone, herr, hport, -⟩ := hi
  obtain ⟨hflt | habs, -, -⟩ := (check_eq_none_iff _ true s).1 hc
  · exact ⟨hsession, hnone, herr, hport, fun _ => ⟨hrsp, hcfg, hflt⟩⟩
  · cases habs

theorem execText_inv {d : Direction} {c : CharCode} (hi : s.Inv) (hbusy : s.busy = false) (hrsp : s.rsp = none)
    (h : execText d c s = .next t) : t.Inv := by
  obtain hc | ⟨hc, hrun⟩ := execText_cases h
  · exact check_inv hi hbusy hc
  · have hcfg := cfg_of_check_eq_none hc
    obtain ⟨-, rfl⟩ | ⟨i, -, ⟨k, u, hk, rfl⟩ | ⟨-, rfl⟩⟩ := hrun
    · obtain ⟨-, -, hab, hsq⟩ := hi.1 hcfg
      exact respond_ok_inv _ (session_write_inv hi hcfg hab hsq) hbusy
    · obtain ⟨L, q, rfl, hq⟩ := drawKey_in_session (hi.1 hcfg) hk
      exact respond_ok_inv _ (keystream_write_inv hi hcfg hq) hbusy
    · exact text_in_flight_inv hi hrsp hc

/-- The invariant does not speak of the alphabet. -/
theorem execAlphaClear_inv (hi : s.Inv) (hbusy : s.busy = false) (h : execAlphaClear s = .next t) : t.Inv := by
  obtain hc | ⟨-, rfl⟩ := execAlphaClear_cases h
  · exact check_inv hi hbusy hc
  · have halpha : State.Inv { s with alen := 0 } := hi
    exact respond_ok_inv 0 halpha hbusy

theorem execAlphaAppend_inv {c : CharCode} (hi : s.Inv) (hbusy : s.busy = false)
    (h : execAlphaAppend c s = .next t) : t.Inv := by
  obtain hc | ⟨-, ⟨hlt, rfl⟩ | ⟨-, rfl⟩⟩ := execAlphaAppend_cases h
  · exact check_inv hi hbusy hc
  · have halpha : State.Inv { s with alpha := s.alpha.set s.alen.toNat c hlt, alen := s.alen + 1 } := hi
    exact respond_ok_inv 0 halpha hbusy
  · exact fatal_inv hi hbusy (by decide) (by decide)

theorem execKeccakF_inv (hi : s.Inv) (hbusy : s.busy = false) (h : execKeccakF s = .next t) : t.Inv := by
  obtain hc | ⟨hc, rfl⟩ := execKeccakF_cases h
  · exact check_inv hi hbusy hc
  · have hcfg := cfg_of_check_eq_none hc
    obtain ⟨-, -, hab, hsq⟩ := hi.1 hcfg
    exact respond_ok_inv 0 (session_write_inv hi hcfg hab hsq) hbusy

theorem execLaneRead_inv {idx : BitVec 5} (hi : s.Inv) (hbusy : s.busy = false)
    (h : execLaneRead idx s = .next t) : t.Inv := by
  obtain hc | ⟨-, rfl⟩ := execLaneRead_cases h
  · exact check_inv hi hbusy hc
  · exact respond_ok_inv _ hi hbusy

/-- Every command that the port accepts keeps the invariant. -/
theorem exec_inv {i : Instr} (hi : s.Inv) (hready : s.busy = false ∧ s.rsp = none) (h : exec i s = .next t) :
    t.Inv := by
  obtain ⟨hbusy, hrsp⟩ := hready
  cases i with
  | init rate cap sfx => exact execInit_inv hi hbusy h
  | absorb e b => exact execAbsorb_inv hi hbusy h
  | squeeze e => exact execSqueeze_inv hi hbusy h
  | xor b => exact execXor_inv hi hbusy h
  | text d c => exact execText_inv hi hbusy hrsp h
  | alphaClear => exact execAlphaClear_inv hi hbusy h
  | alphaAppend c => exact execAlphaAppend_inv hi hbusy h
  | status =>
    cases (execStatus_eq s).symm.trans h
    exact respond_ok_inv _ hi hbusy
  | keccakF => exact execKeccakF_inv hi hbusy h
  | laneRead idx => exact execLaneRead_inv hi hbusy h

theorem execIllegal_inv (hi : s.Inv) (hbusy : s.busy = false) (h : execIllegal s = .next t) : t.Inv := by
  cases (execIllegal_eq s).symm.trans h
  split
  · next hflt => exact respond_faulted_inv hi hbusy hflt
  · exact fatal_inv hi hbusy (by decide) (by decide)

theorem deliver_inv (hi : s.Inv) : (deliver s).Inv := by
  obtain ⟨hsession, hnone, herr, -, hflight⟩ := hi
  exact ⟨hsession, hnone, herr, by simp, fun hbusy => ⟨rfl, (hflight hbusy).2⟩⟩

end

/-- Settles O57: at reset there is no session, no fault and nothing on the port, so only the values before the first
INIT and ERR = 0 are left to check. -/
theorem invariantHoldsAfterReset : Obligations.InvariantHoldsAfterReset := by
  refine ⟨fun hcfg => ?_, fun _ => ⟨rfl, rfl, rfl, rfl, rfl, rfl⟩, by decide, by simp [State.reset],
    by simp [State.reset]⟩
  cases hcfg

/-- The invariant does not speak of the build and the host's next actions. -/
theorem resetCore_inv (s : State) : (resetCore s).Inv := invariantHoldsAfterReset

/-- Settles O58, along the host actions of a step: reset restores the reset state, a delivery only empties the port,
a command that waits changes nothing, and one that the port accepts is `exec_inv`'s or `execIllegal_inv`'s. -/
theorem stepKeepsTheInvariant : Obligations.StepKeepsTheInvariant := by
  intro s t hi h
  unfold step at h
  split at h
  · cases h; exact hi
  · cases h; exact resetCore_inv _
  · next rest _ =>
    have hrest : State.Inv { s with inputs := rest } := hi
    cases h
    exact deliver_inv hrest
  · next w rest _ =>
    have hrest : State.Inv { s with inputs := rest } := hi
    split at h
    · next hready =>
      have hport := (cmdReady_iff s).1 hready
      split at h
      · exact exec_inv hrest hport h
      · exact execIllegal_inv hrest hport.1 h
    · cases h; exact hi

/-- Settles O52, from the writers of CFG, rate_bytes, suffix and `absorbed`. -/
theorem onlyInitWritesTheConfiguration : Obligations.OnlyInitWritesTheConfiguration := by
  intro s t i h hinit
  obtain ⟨hwriters, -⟩ := exec_writers h
  obtain ⟨⟨hcfg, hrate, hsuffix⟩, habsorbed, -, -⟩ := hwriters hinit
  exact ⟨hcfg, hrate, hsuffix, habsorbed⟩

/-- Settles O53, from the writers of the alphabet. -/
theorem onlyAlphabetCommandsChangeTheAlphabet : Obligations.OnlyAlphabetCommandsChangeTheAlphabet := by
  intro s t i h
  obtain ⟨-, halphabet⟩ := exec_writers h
  exact halphabet

/-- Settles O54: INIT and TEXT each write one value of WARN, and the other commands keep it. -/
theorem warnIsSticky : Obligations.WarnIsSticky := by
  intro s t i h
  by_cases hinit : ∃ r c f, i = .init r c f
  · refine ⟨fun _ _ => hinit, fun hs ht => ?_⟩
    obtain ⟨r, c, f, rfl⟩ := hinit
    obtain hw | hw := execInit_warn h <;> simp [hw, hs] at ht
  · by_cases htext : ∃ d c, i = .text d c
    · refine ⟨fun hs ht => ?_, fun _ _ => htext⟩
      obtain ⟨d, c, rfl⟩ := htext
      obtain hw | hw := execText_warn h <;> simp [hw, hs] at ht
    · obtain ⟨hwriters, -⟩ := exec_writers h
      obtain ⟨-, -, -, hkeeps⟩ := hwriters (by simpa using hinit)
      have hwarn := hkeeps (by simpa using htext)
      exact ⟨fun hs ht => by simp [hwarn, hs] at ht, fun hs ht => by simp [hwarn, hs] at ht⟩

/-- Settles O56: a keystream command never leaves phase SQUEEZE, and a command that is none and no INIT keeps the
phase. -/
theorem phaseIsSingleOrdered : Obligations.PhaseIsSingleOrdered := by
  intro s t i hcfg hw h
  by_cases hinit : ∃ r c f, i = .init r c f
  · refine ⟨fun _ _ => hinit, fun hs ht => ?_⟩
    obtain ⟨r, c, f, rfl⟩ := hinit
    obtain hp | hp := execInit_phase h <;> simp [hp, hs] at ht
  · by_cases hkey : IsKeystream i
    · refine ⟨fun hs ht => ?_, fun _ _ => hkey⟩
      obtain hp | hp := exec_keystream_phase hcfg hw h hkey <;> simp [hp, hs] at ht
    · have hphase := exec_keeps_phase h (by simpa using hinit) hkey
      exact ⟨fun hs ht => by simp [hphase, hs] at ht, fun hs ht => by simp [hphase, hs] at ht⟩

end Sys2Proof.Machine
end

section
/-! SUPPORT. Non-interference of the unused alphabet entries (10_state.md R34). Every shared operation and every
command but the two that look at the table commutes with replacing the table. For those two, TEXT and
ALPHA_APPEND, it is enough that the tables agree below alen. -/

namespace Sys2Proof.Machine

/-! ### Replacing the alphabet table -/

/-- `s` with another alphabet table. -/
def State.withAlpha (A : Alphabet) (s : State) : State := { s with alpha := A }

/-- A draw's outcome with another alphabet table in its state. -/
def Draw.withAlpha (A : Alphabet) : Draw → Draw
  | .key k t => .key k (t.withAlpha A)
  | .none => .none
  | .stopped f => .stopped f

/-- An outcome with another alphabet table in its next state. -/
def outcomeWithAlpha (A : Alphabet) : Host.Outcome State Fault Refusal → Host.Outcome State Fault Refusal
  | .next t => .next (t.withAlpha A)
  | .fault f => .fault f
  | .refused r => .refused r

section
variable (A : Alphabet) (s : State)

@[simp] theorem withAlpha_rateBytes : (s.withAlpha A).rateBytes = s.rateBytes := rfl
@[simp] theorem withAlpha_suffix : (s.withAlpha A).suffix = s.suffix := rfl
@[simp] theorem withAlpha_absorbed : (s.withAlpha A).absorbed = s.absorbed := rfl
@[simp] theorem withAlpha_squeezed : (s.withAlpha A).squeezed = s.squeezed := rfl
@[simp] theorem withAlpha_alpha : (s.withAlpha A).alpha = A := rfl
@[simp] theorem withAlpha_alen : (s.withAlpha A).alen = s.alen := rfl
@[simp] theorem withAlpha_phase : (s.withAlpha A).phase = s.phase := rfl

/-- The prologue looks at FLT, CFG and the build only (R215). -/
theorem check_withAlpha (d : Option Instr) (n : Bool) :
    check d n (s.withAlpha A) = (check d n s).map (State.withAlpha A) := by
  cases d with
  | none =>
    simp only [check, apply_ite (Option.map (State.withAlpha A))]
    rfl
  | some i =>
    simp only [check, apply_ite (Option.map (State.withAlpha A))]
    rfl

/-! ### The sponge's procedures do not see the alphabet -/

theorem stateByte_withAlpha (i : Nat) : stateByte i (s.withAlpha A) = stateByte i s :=
  stateByte_congr rfl i

theorem stateXorByte_withAlpha (i : Nat) (v : Byte) :
    stateXorByte i v (s.withAlpha A) = (stateXorByte i v s).map (State.withAlpha A) := by
  by_cases hi : i < 200
  · rw [stateXorByte_of_lt v _ hi, stateXorByte_of_lt v s hi]; rfl
  · have hge := Nat.not_lt.1 hi
    rw [stateXorByte_of_ge v _ hge, stateXorByte_of_ge v s hge]; rfl

theorem advanceAbsorbed_withAlpha : advanceAbsorbed (s.withAlpha A) = (advanceAbsorbed s).withAlpha A := by
  rw [advanceAbsorbed, advanceAbsorbed, apply_ite (State.withAlpha A)]
  rfl

theorem padMiddle_withAlpha : padMiddle (s.withAlpha A) = (padMiddle s).withAlpha A := by
  rw [padMiddle, padMiddle, apply_ite (State.withAlpha A)]
  rfl

theorem advanceSqueezed_withAlpha : advanceSqueezed (s.withAlpha A) = (advanceSqueezed s).withAlpha A := by
  rw [advanceSqueezed, advanceSqueezed, apply_ite (State.withAlpha A)]
  rfl

theorem absorbByte_withAlpha (b : Byte) :
    absorbByte b (s.withAlpha A) = (absorbByte b s).map (State.withAlpha A) := by
  simp only [absorbByte, withAlpha_absorbed, stateXorByte_withAlpha]
  cases stateXorByte s.absorbed.toNat b s with
  | error f => rfl
  | ok t => exact congrArg Except.ok (advanceAbsorbed_withAlpha A t)

theorem pad_withAlpha : pad (s.withAlpha A) = (pad s).map (State.withAlpha A) := by
  simp only [pad, withAlpha_absorbed, withAlpha_suffix, stateXorByte_withAlpha]
  cases stateXorByte s.absorbed.toNat s.suffix s with
  | error f => rfl
  | ok t =>
    simp only [Except.map, withAlpha_rateBytes, padMiddle_withAlpha, stateXorByte_withAlpha]
    cases stateXorByte (t.rateBytes - 1).toNat 0x80 (padMiddle t) <;> rfl

theorem padIfVirgin_withAlpha : padIfVirgin (s.withAlpha A) = (padIfVirgin s).map (State.withAlpha A) := by
  simp only [padIfVirgin, withAlpha_squeezed, withAlpha_rateBytes, pad_withAlpha]
  split <;> rfl

theorem closeAbsorbPhase_withAlpha :
    closeAbsorbPhase (s.withAlpha A) = (closeAbsorbPhase s).map (State.withAlpha A) := by
  simp only [closeAbsorbPhase, withAlpha_phase, pad_withAlpha]
  split <;> rfl

theorem squeezeByte_withAlpha :
    squeezeByte (s.withAlpha A) = (squeezeByte s).map fun p => (p.1, p.2.withAlpha A) := by
  simp only [squeezeByte, padIfVirgin_withAlpha]
  cases padIfVirgin s with
  | error f => rfl
  | ok t =>
    simp only [Except.map, withAlpha_squeezed, advanceSqueezed_withAlpha, stateByte_withAlpha]
    cases stateByte t.squeezed.toNat t <;> rfl

/-- The rejection loop draws the same keys whatever the table holds (R164). -/
theorem drawKey_withAlpha (L n : Nat) : drawKey L n (s.withAlpha A) = (drawKey L n s).withAlpha A := by
  induction n generalizing s with
  | zero => rfl
  | succ n ih =>
    simp only [drawKey, squeezeByte_withAlpha]
    cases squeezeByte s with
    | error f => rfl
    | ok p =>
      simp only [Except.map, ih]
      split <;> rfl

/-! ### The commands that do not look at the table -/

/-- A command that neither reads nor writes the table commutes with replacing it (R34, R163, R171). -/
theorem exec_withAlpha (i : Instr) (htext : ∀ d c, i ≠ .text d c) (happend : ∀ c, i ≠ .alphaAppend c) :
    exec i (s.withAlpha A) = outcomeWithAlpha A (exec i s) := by
  cases i with
  | text d c => exact absurd rfl (htext d c)
  | alphaAppend c => exact absurd rfl (happend c)
  | init rate cap sfx =>
    simp only [exec, execInit, check_withAlpha]
    cases check (some (.init rate cap sfx)) false s with
    | some t => rfl
    | none => cases configLegal rate cap <;> rfl
  | absorb e b =>
    simp only [exec, execAbsorb, check_withAlpha, withAlpha_phase, absorbByte_withAlpha]
    cases check (some (.absorb e b)) true s with
    | some t => rfl
    | none =>
      simp only [Option.map_none]
      split
      · rfl
      · cases e
        · cases absorbByte b s <;> rfl
        · rfl
  | squeeze e =>
    simp only [exec, execSqueeze, check_withAlpha, closeAbsorbPhase_withAlpha, squeezeByte_withAlpha]
    cases check (some (.squeeze e)) true s with
    | some t => rfl
    | none =>
      cases e
      · cases squeezeByte s <;> rfl
      · cases closeAbsorbPhase s <;> rfl
  | xor b =>
    simp only [exec, execXor, check_withAlpha, squeezeByte_withAlpha]
    cases check (some (.xor b)) true s with
    | some t => rfl
    | none => cases squeezeByte s <;> rfl
  | alphaClear =>
    simp only [exec, execAlphaClear, check_withAlpha]
    cases check (some .alphaClear) false s <;> rfl
  | status => simp only [exec, execStatus_eq]; rfl
  | keccakF =>
    simp only [exec, execKeccakF, check_withAlpha]
    cases check (some .keccakF) true s <;> rfl
  | laneRead idx =>
    simp only [exec, execLaneRead, check_withAlpha]
    cases check (some (.laneRead idx)) true s <;> rfl

end

/-! ### TEXT reads the table below alen -/

/-- The scan finds an index below alen (R163). -/
theorem lookup_lt {c : CharCode} {s : State} {i : Nat} (h : lookup c s = some i) : i < s.alen.toNat := by
  have hscan : ∀ j, lookup c s = some j → j < s.alen.toNat := by
    refine List.foldlRecOn (motive := fun found => ∀ j, found = some j → j < s.alen.toNat) _ _ (by simp) ?_
    intro found ih k hk j hj
    split at hj
    · cases hj
      exact List.mem_range.1 hk
    · exact ih j hj
  exact hscan i h

/-- The scan looks at the entries below alen only (R163). -/
theorem lookup_withAlpha {A : Alphabet} {s : State} (hA : ∀ j, j < s.alen.toNat → s.alpha[j]? = A[j]?)
    (c : CharCode) : lookup c (s.withAlpha A) = lookup c s := by
  refine List.foldl_ext _ _ _ fun found j hj => ?_
  rw [withAlpha_alpha, hA j (List.mem_range.1 hj)]

/-- The map of R166 stays below `L`. -/
theorem shiftIndex_lt {d : Direction} {L i k : Nat} (hi : i < L) (hk : k < L) : shiftIndex d L i k < L := by
  cases d with
  | encrypt => exact Nat.mod_lt _ (by omega)
  | decrypt =>
    simp only [shiftIndex]
    split <;> omega

/-- TEXT answers with an entry below alen, which both tables hold (R167). -/
theorem symbolAt_withAlpha {A : Alphabet} {s : State} (hA : ∀ j, j < s.alen.toNat → s.alpha[j]? = A[j]?)
    {j : Nat} (hj : j < s.alen.toNat) : symbolAt (s.withAlpha A) j = symbolAt s j := by
  have hfin : (Fin.ofNat 255 j).val < s.alen.toNat := lt_of_le_of_lt (Nat.mod_le j 255) hj
  have hentry := hA _ hfin
  simp only [Vector.getElem?_eq_getElem (Fin.ofNat 255 j).isLt, Option.some.injEq] at hentry
  exact hentry.symm

/-- TEXT commutes with replacing the table above alen: the scan, the key and the answer are the same. -/
theorem execText_withAlpha {A : Alphabet} {s : State} (hA : ∀ j, j < s.alen.toNat → s.alpha[j]? = A[j]?)
    (d : Direction) (c : CharCode) :
    execText d c (s.withAlpha A) = outcomeWithAlpha A (execText d c s) := by
  simp only [execText, check_withAlpha, lookup_withAlpha hA, drawKey_withAlpha, withAlpha_alen]
  cases check (some (.text d c)) true s with
  | some t => rfl
  | none =>
    cases hl : lookup c s with
    | none => rfl
    | some i =>
      cases hk : drawKey s.alen.toNat drawBound s with
      | none => rfl
      | stopped f => rfl
      | key k t =>
        obtain ⟨hkey, -⟩ := drawsKey_frame (drawKey_key hk)
        have hindex : shiftIndex d s.alen.toNat i k.toNat < s.alen.toNat := shiftIndex_lt (lookup_lt hl) hkey
        simp only [Option.map_none, Draw.withAlpha, symbolAt_withAlpha hA hindex]
        rfl

/-! ### ALPHA_APPEND writes the entry at alen -/

/-- Writing the same symbol at alen into tables that agree below alen gives tables that agree up to alen. -/
theorem set_alen_agree {A B : Alphabet} {n : Nat} (hn : n < 255) (hA : ∀ j, j < n → B[j]? = A[j]?)
    (c : CharCode) {j : Nat} (hj : j < n + 1) : (B.set n c)[j]? = (A.set n c)[j]? := by
  simp only [Vector.getElem?_set]
  split
  · rfl
  · exact hA j (by omega)

theorem execAlphaAppend_of_room {c : CharCode} {s : State} (hc : check (some (.alphaAppend c)) false s = none)
    (hlt : s.alen.toNat < 255) : execAlphaAppend c s =
      .next (respond .ok 0 { s with alpha := s.alpha.set s.alen.toNat c hlt, alen := s.alen + 1 }) := by
  simp only [execAlphaAppend, hc]
  exact dif_pos hlt

theorem execAlphaAppend_of_full {c : CharCode} {s : State} (hc : check (some (.alphaAppend c)) false s = none)
    (hfull : 255 ≤ s.alen.toNat) : execAlphaAppend c s = .next (fatal .config s) := by
  simp only [execAlphaAppend, hc]
  exact dif_neg (Nat.not_lt.2 hfull)

theorem execAlphaAppend_of_stopped {c : CharCode} {s t : State}
    (hc : check (some (.alphaAppend c)) false s = some t) : execAlphaAppend c s = .next t := by
  simp only [execAlphaAppend, hc]

/-- ALPHA_APPEND keeps the agreement: it puts the same symbol into both tables at the same index (R171). -/
theorem execAlphaAppend_agree {A : Alphabet} {s t : State}
    (hA : ∀ j, j < s.alen.toNat → s.alpha[j]? = A[j]?) {c : CharCode} (h : execAlphaAppend c s = .next t) :
    ∃ u, execAlphaAppend c (s.withAlpha A) = .next u ∧ AgreeOnAlphabet t u := by
  have hcheck := check_withAlpha A s (some (.alphaAppend c)) false
  obtain hc | ⟨hc, ⟨hlt, rfl⟩ | ⟨hfull, rfl⟩⟩ := execAlphaAppend_cases h
  · rw [hc] at hcheck
    refine ⟨_, execAlphaAppend_of_stopped hcheck, rfl, ?_⟩
    rw [check_frame hc]
    exact hA
  · rw [hc] at hcheck
    refine ⟨_, execAlphaAppend_of_room hcheck hlt, rfl, fun j hj => ?_⟩
    have hnext : (s.alen + 1).toNat = s.alen.toNat + 1 := by
      rw [BitVec.toNat_add]
      exact Nat.mod_eq_of_lt (Nat.succ_lt_succ hlt)
    exact set_alen_agree hlt hA c (lt_of_lt_of_eq hj hnext)
  · rw [hc] at hcheck
    exact ⟨_, execAlphaAppend_of_full hcheck hfull, rfl, hA⟩

/-! ### Every command -/

/-- A command other than ALPHA_APPEND keeps the table, and alen does not grow (R35, R170). -/
theorem exec_keeps_table {s t : State} {i : Instr} (h : exec i s = .next t) (happend : ∀ c, i ≠ .alphaAppend c) :
    t.alpha = s.alpha ∧ t.alen.toNat ≤ s.alen.toNat := by
  by_cases hclear : i = .alphaClear
  · subst hclear
    obtain hc | ⟨-, rfl⟩ := execAlphaClear_cases h
    · rw [check_frame hc]; exact ⟨rfl, le_refl _⟩
    · exact ⟨rfl, Nat.zero_le _⟩
  · obtain ⟨-, halphabet⟩ := exec_writers h
    obtain ⟨halpha, halen⟩ := halphabet hclear happend
    exact ⟨halpha, by rw [halen]⟩

/-- A command other than ALPHA_APPEND commutes with replacing the table above alen. -/
theorem exec_withAlpha_of_agree {A : Alphabet} {s : State} (hA : ∀ j, j < s.alen.toNat → s.alpha[j]? = A[j]?)
    {i : Instr} (happend : ∀ c, i ≠ .alphaAppend c) : exec i (s.withAlpha A) = outcomeWithAlpha A (exec i s) := by
  by_cases htext : ∃ d c, i = .text d c
  · obtain ⟨d, c, rfl⟩ := htext
    exact execText_withAlpha hA d c
  · exact exec_withAlpha A s i (by simpa using htext) happend

/-- Settles O39: ALPHA_APPEND extends the agreement by one entry, and every other command gives the same outcome
from both states but for the table, which it keeps. -/
theorem unusedAlphabetEntriesAreUnobservable : Obligations.UnusedAlphabetEntriesAreUnobservable := by
  intro i s1 s2 t1 hagree h
  obtain ⟨hs2, hA⟩ := hagree
  generalize s2.alpha = A at hs2 hA
  change s2 = s1.withAlpha A at hs2
  subst hs2
  by_cases happend : ∃ c, i = .alphaAppend c
  · obtain ⟨c, rfl⟩ := happend
    exact execAlphaAppend_agree hA h
  · have hother : ∀ c, i ≠ .alphaAppend c := by simpa using happend
    obtain ⟨halpha, halen⟩ := exec_keeps_table h hother
    refine ⟨t1.withAlpha A, by rw [exec_withAlpha_of_agree hA hother, h]; rfl, rfl, fun j hj => ?_⟩
    rw [halpha]
    exact hA j (lt_of_lt_of_le hj halen)

end Sys2Proof.Machine
end

section
/-! SUPPORT. State (10_state.md): the status word field by field (R40, R190) and the reset values (R41, R241). -/

namespace Sys2Proof.Machine

/-! ### The status word -/

/-- SQZ is the phase (R28, R40). -/
theorem sqz_iff (s : State) : s.sqz = true ↔ s.phase = .squeeze := by
  simp [State.sqz]

/-- The status word as its fields from bit 63 down (R40). -/
theorem statusWord_eq_append (s : State) :
    statusWord s = (0#16 ++ (s.alen ++ s.suffix ++ s.rateBytes ++ s.squeezed ++ s.absorbed ++ s.err
      ++ BitVec.ofBool s.flt ++ BitVec.ofBool s.warn ++ BitVec.ofBool s.sqz ++ BitVec.ofBool s.cfg) : Word) :=
  BitVec.setWidth_eq_append (by decide)

/-- The four flags, at bits 0 to 3 (R40). -/
theorem statusWord_flags (s : State) :
    (statusWord s).getLsbD 0 = s.cfg ∧ (statusWord s).getLsbD 1 = s.sqz ∧ (statusWord s).getLsbD 2 = s.warn ∧
    (statusWord s).getLsbD 3 = s.flt := by
  simp only [statusWord_eq_append, BitVec.getLsbD_append]
  simp

/-- The fields of more than one bit, at bits 4 to 47 (R40): each position lies above the fields to the right of it
in the concatenation and is the start of its own. -/
theorem statusWord_fields (s : State) :
    (statusWord s).extractLsb' 4 4 = s.err ∧ (statusWord s).extractLsb' 8 8 = s.absorbed ∧
    (statusWord s).extractLsb' 16 8 = s.squeezed ∧ (statusWord s).extractLsb' 24 8 = s.rateBytes ∧
    (statusWord s).extractLsb' 32 8 = s.suffix ∧ (statusWord s).extractLsb' 40 8 = s.alen := by
  simp (disch := decide) only [statusWord_eq_append, BitVec.extractLsb'_append_eq_of_add_le,
    BitVec.extractLsb'_append_eq_of_le, Nat.reduceSub, BitVec.extractLsb'_eq_self, and_self]

/-- The reserved bits (R40). -/
theorem statusWord_reserved (s : State) : (statusWord s).extractLsb' 48 16 = 0 := by
  rw [statusWord_eq_append]
  exact BitVec.extractLsb'_append_eq_left

/-- Settles O40: STATUS answers with the status word (`execStatus_eq`), which is read field by field. -/
theorem statusReportsEveryField : Obligations.StatusReportsEveryField := by
  intro s
  obtain ⟨hcfg, hsqz, hwarn, hflt⟩ := statusWord_flags s
  have hphase : (statusWord s).getLsbD 1 = true ↔ s.phase = .squeeze := by rw [hsqz, sqz_iff]
  obtain ⟨herr, habsorbed, hsqueezed, hrate, hsuffix, halen⟩ := statusWord_fields s
  exact ⟨statusWord s, execStatus_eq s, hcfg, hphase, hwarn, hflt, herr, habsorbed, hsqueezed, hrate, hsuffix, halen,
    statusWord_reserved s⟩

/-! ### The reset values -/

theorem statusWord_reset : statusWord State.reset = 0x00001B0000000000 := by decide

/-- Settles O51: the lanes and the table are read entry by entry, and the STATUS word at the port decodes to STATUS,
whose answer is the status word. -/
theorem resetValuesAreTheTable : Obligations.ResetValuesAreTheTable := by
  refine ⟨fun i => ?_, rfl, rfl, rfl, rfl, rfl, rfl, rfl, rfl, rfl, fun j => ?_, ?_⟩
  · simp [State.reset, zeroLanes]
  · simp [State.reset, defaultAlphabet, defaultSymbol]
  · have hdecode : decode Config.defaultBuild 0x0800000000000000 = .ok .status := by decide
    calc step (State.reset.withFetchWord 64 0x0800000000000000)
        = exec .status State.reset := step_command_of_decode_ok rfl rfl hdecode
      _ = .next (respond .ok (statusWord State.reset) State.reset) := execStatus_eq State.reset
      _ = .next (respond .ok 0x00001B0000000000 State.reset) := by rw [statusWord_reset]

end Sys2Proof.Machine
end

section
/-! SUPPORT. The state byte view (20_memory.md): a lane as the sum of its eight bytes (R50 to R52), and why no step
from a state with the invariant stops: a command ends in its prologue, or passes it and then cannot fail (R53, R214). -/

namespace Sys2Proof.Machine

/-! ### The bytes of a lane -/

/-- Byte `j` of a lane is its digit `j` to the base 2^8, little-endian (R51). -/
theorem laneByte_toNat (v : Word) (j : Nat) : (laneByte v j).toNat = v.toNat / 2 ^ (8 * j) % 2 ^ 8 := by
  simp [laneByte, Nat.shiftRight_eq_div_pow]

/-- The low `n` bytes of a lane sum to its low 8 * n bits: each further byte is the next digit to the base 2^8 (R52). -/
theorem sum_laneByte (v : Word) (n : Nat) :
    ∑ j : Fin n, (laneByte v j).toNat * 2 ^ (8 * j.val) = v.toNat % 2 ^ (8 * n) := by
  induction n with
  | zero => simp [Nat.mod_one]
  | succ n ih =>
    calc ∑ j : Fin (n + 1), (laneByte v j).toNat * 2 ^ (8 * j.val)
        = v.toNat % 2 ^ (8 * n) + (laneByte v n).toNat * 2 ^ (8 * n) := by
          rw [Fin.sum_univ_castSucc]
          exact congrArg (· + _) ih
      _ = v.toNat % 2 ^ (8 * n) + 2 ^ (8 * n) * (v.toNat / 2 ^ (8 * n) % 2 ^ 8) := by
          rw [laneByte_toNat, Nat.mul_comm (2 ^ (8 * n))]
      _ = v.toNat % 2 ^ (8 * (n + 1)) := by
          rw [Nat.mul_add_one, Nat.pow_add, Nat.mod_mul]

/-- Byte 8k + j of the view is byte `j` of lane `k` (R50). -/
theorem stateByte_of_lane (s : State) (k : Fin 25) (j : Fin 8) :
    stateByte (8 * k.val + j.val) s = .ok (laneByte s.lane[k] j) := by
  have hlane : (8 * k.val + j.val) / 8 = k.val := by omega
  have hpos : (8 * k.val + j.val) % 8 = j.val := by omega
  rw [stateByte_of_lt s (by omega)]
  simp only [hlane, hpos, Fin.getElem_fin]

/-- Settles O15: the eight bytes are the ones at these addresses, and eight bytes are the whole lane. -/
theorem laneIsTheSumOfItsBytes : Obligations.LaneIsTheSumOfItsBytes := by
  intro s k
  refine ⟨fun j => laneByte s.lane[k] j, stateByte_of_lane s k, ?_⟩
  rw [sum_laneByte, Nat.mod_eq_of_lt s.lane[k].isLt]

/-! ### No step from a state with the invariant stops

`absorbByte_total`, `pad_total`, `squeezeByte_total` and `drawKey_total` say that in a well-formed session the
sponge's procedures address bytes of the view only (R53). Here each command follows from them. -/

/-- The session commands: those whose prologue asks for a session (R215). -/
def needsSession : Instr → Bool
  | .absorb _ _ => true
  | .squeeze _ => true
  | .xor _ => true
  | .text _ _ => true
  | .keccakF => true
  | .laneRead _ => true
  | .init _ _ _ => false
  | .alphaClear => false
  | .alphaAppend _ => false
  | .status => false

section
variable {s : State}

/-- A command whose prologue ends it ends in the prologue's state: every command's meaning opens with its prologue
(R215). -/
theorem exec_of_check_eq_some {i : Instr} {t : State} (h : check (some i) (needsSession i) s = some t) :
    exec i s = .next t := by
  cases i <;>
    (simp only [needsSession] at h
     simp only [exec, execInit, execAbsorb, execSqueeze, execXor, execText, execAlphaClear, execAlphaAppend, execStatus,
       execKeccakF, execLaneRead, h])

/-! A command that passes its prologue has a next state; a session command because the session is well-formed (R214). -/

theorem execInit_total {rate cap : BitVec 11} {sfx : Byte}
    (hc : check (some (.init rate cap sfx)) false s = none) : ∃ t, execInit rate cap sfx s = .next t := by
  simp only [execInit, hc]
  split
  · exact ⟨_, rfl⟩
  · exact ⟨_, rfl⟩

theorem execAbsorb_total {e : Bool} {b : Byte} (hw : s.SessionWf)
    (hc : check (some (.absorb e b)) true s = none) : ∃ t, execAbsorb e b s = .next t := by
  obtain ⟨L, a, habsorb, -⟩ := absorbByte_total b hw
  simp only [execAbsorb, hc, habsorb]
  split
  · exact ⟨_, rfl⟩
  · split
    · exact ⟨_, rfl⟩
    · exact ⟨_, rfl⟩

/-- SQUEEZE.E pads or does nothing, so it cannot fail (R142). -/
theorem closeAbsorbPhase_total (hw : s.SessionWf) : ∃ t, closeAbsorbPhase s = .ok t := by
  obtain ⟨L, hpad⟩ := pad_total hw
  unfold closeAbsorbPhase
  split
  · exact ⟨_, hpad⟩
  · exact ⟨s, rfl⟩

theorem execSqueeze_total {e : Bool} (hw : s.SessionWf) (hc : check (some (.squeeze e)) true s = none) :
    ∃ t, execSqueeze e s = .next t := by
  obtain ⟨u, hclose⟩ := closeAbsorbPhase_total hw
  obtain ⟨k, L, q, hsqueeze, -⟩ := squeezeByte_total hw
  simp only [execSqueeze, hc, hclose, hsqueeze]
  split
  · exact ⟨_, rfl⟩
  · exact ⟨_, rfl⟩

theorem execXor_total {b : Byte} (hw : s.SessionWf) (hc : check (some (.xor b)) true s = none) :
    ∃ t, execXor b s = .next t := by
  obtain ⟨k, L, q, hsqueeze, -⟩ := squeezeByte_total hw
  simp only [execXor, hc, hsqueeze]
  exact ⟨_, rfl⟩

/-- TEXT passes the character through, answers with a symbol, or stays in flight (R164, R167, R168). -/
theorem execText_total {d : Direction} {c : CharCode} (hw : s.SessionWf)
    (hc : check (some (.text d c)) true s = none) : ∃ t, execText d c s = .next t := by
  cases hl : lookup c s with
  | none => simp only [execText, hc, hl]; exact ⟨_, rfl⟩
  | some i =>
    obtain hnone | ⟨k, M, q, hkey, -⟩ := drawKey_total (L := s.alen.toNat) (n := drawBound) hw
    · simp only [execText, hc, hl, hnone]; exact ⟨_, rfl⟩
    · simp only [execText, hc, hl, hkey]; exact ⟨_, rfl⟩

theorem execAlphaAppend_total {c : CharCode} (hc : check (some (.alphaAppend c)) false s = none) :
    ∃ t, execAlphaAppend c s = .next t := by
  by_cases hroom : s.alen.toNat < 255
  · exact ⟨_, execAlphaAppend_of_room hc hroom⟩
  · exact ⟨_, execAlphaAppend_of_full hc (Nat.not_lt.1 hroom)⟩

theorem execAlphaClear_of_check_eq_none (hc : check (some .alphaClear) false s = none) :
    execAlphaClear s = .next (respond .ok 0 { s with alen := 0 }) := by
  simp only [execAlphaClear, hc]

theorem execKeccakF_of_check_eq_none (hc : check (some .keccakF) true s = none) :
    execKeccakF s = .next (respond .ok 0 (permute s)) := by
  simp only [execKeccakF, hc]

theorem execLaneRead_of_check_eq_none {idx : BitVec 5} (hc : check (some (.laneRead idx)) true s = none) :
    execLaneRead idx s = .next (respond .ok s.lane[Fin.ofNat 25 idx.toNat] s) := by
  simp only [execLaneRead, hc]

/-- Every command has a next state where a session, if there is one, is well-formed: its prologue ends it, or it passes
and cannot fail later (R214). -/
theorem exec_total (i : Instr) (hsession : s.cfg = true → s.SessionWf) : ∃ t, exec i s = .next t := by
  cases hc : check (some i) (needsSession i) s with
  | some t => exact ⟨t, exec_of_check_eq_some hc⟩
  | none =>
    cases i with
    | init rate cap sfx => exact execInit_total hc
    | absorb e b => exact execAbsorb_total (hsession (cfg_of_check_eq_none hc)) hc
    | squeeze e => exact execSqueeze_total (hsession (cfg_of_check_eq_none hc)) hc
    | xor b => exact execXor_total (hsession (cfg_of_check_eq_none hc)) hc
    | text d c => exact execText_total (hsession (cfg_of_check_eq_none hc)) hc
    | alphaClear => exact ⟨_, execAlphaClear_of_check_eq_none hc⟩
    | alphaAppend c => exact execAlphaAppend_total hc
    | status => exact ⟨_, execStatus_eq s⟩
    | keccakF => exact ⟨_, execKeccakF_of_check_eq_none hc⟩
    | laneRead idx => exact ⟨_, execLaneRead_of_check_eq_none hc⟩

end

/-- Settles O59, along the host actions of a step: only a command that the port accepts does more than write the state,
and it is `exec_total`'s or, for an illegal word, `execIllegal_eq`'s. -/
theorem invariantStatesNeverStop : Obligations.InvariantStatesNeverStop := by
  intro s hi
  obtain ⟨hsession, -⟩ := hi
  unfold step
  split
  · exact ⟨_, rfl⟩
  · exact ⟨_, rfl⟩
  · exact ⟨_, rfl⟩
  · next w rest _ =>
    split
    · split
      · next i _ => exact exec_total (s := { s with inputs := rest }) i hsession
      · exact ⟨_, execIllegal_eq _⟩
    · exact ⟨_, rfl⟩

end Sys2Proof.Machine
end

section
/-! SUPPORT. Encoding (30_encoding.md): a word spells at most one row, so the decoder is the row's reading of the
fields (R78 to R82), and the assembler's words (R88). -/

namespace Sys2Proof

open Laws.EncodeSpellsRow (spells_iff)

/-! ### The rows of R80's table -/

/-- Bits that a row's mask covers are the pattern's in every word that spells the row (R80). -/
theorem slice_of_spells {r : Row} {w : Word} (h : r.spells w = true) (k : Nat) {n : Nat} (v : BitVec n)
    (hfixed : r.mask.extractLsb' k n = BitVec.allOnes n ∧ r.pattern.extractLsb' k n = v) : w.extractLsb' k n = v := by
  obtain ⟨hmask, hpattern⟩ := hfixed
  calc w.extractLsb' k n
      = (w &&& r.mask).extractLsb' k n := by rw [BitVec.extractLsb'_and, hmask, BitVec.and_allOnes]
    _ = v := by rw [(spells_iff r w).1 h, hpattern]

/-- Every row's mask covers the opcode byte (R72, R80). -/
theorem mask_covers_opcode : ∀ r ∈ rows, r.mask.extractLsb' 56 8 = BitVec.allOnes 8 := by decide

/-- No two rows have the same opcode (R79). -/
theorem row_eq_of_opcode_eq :
    ∀ r ∈ rows, ∀ q ∈ rows, r.pattern.extractLsb' 56 8 = q.pattern.extractLsb' 56 8 → r = q := by decide

theorem rowOf_mem_rows (i : Instr) : rowOf i ∈ rows := by
  cases i <;> simp [rowOf, rows]

/-- A word spells one row at most: its opcode byte is the row's. -/
theorem spells_eq_of_spells {r : Row} {w : Word} (hr : r ∈ rows) (h : r.spells w = true) :
    ∀ q ∈ rows, q.spells w = decide (q = r) := by
  intro q hq
  by_cases hqr : q = r
  · simp [hqr, h]
  · have hspells : ¬ q.spells w = true := fun h' =>
      hqr (row_eq_of_opcode_eq q hq r hr ((slice_of_spells h' 56 _ ⟨mask_covers_opcode q hq, rfl⟩).symm.trans
        (slice_of_spells h 56 _ ⟨mask_covers_opcode r hr, rfl⟩)))
    simp [hqr, hspells]

/-! ### The decoder, said once -/

/-- The command of `i`'s opcode with the operand fields of the word (R78). -/
def readFields (w : Word) : Instr → Instr
  | .init _ _ _ => .init (w.extractLsb' 32 11) (w.extractLsb' 16 11) (w.extractLsb' 0 8)
  | .absorb _ _ => .absorb (w.getLsbD 8) (w.extractLsb' 0 8)
  | .squeeze _ => .squeeze (w.getLsbD 8)
  | .xor _ => .xor (w.extractLsb' 0 8)
  | .text _ _ => .text (Direction.ofBit (w.getLsbD 32)) (w.extractLsb' 0 32)
  | .alphaClear => .alphaClear
  | .alphaAppend _ => .alphaAppend (w.extractLsb' 0 32)
  | .status => .status
  | .keccakF => .keccakF
  | .laneRead _ => .laneRead (w.extractLsb' 0 5)

/-- A command that is no test-port command is legal in every build (R77, R80). -/
theorem wellFormed_of_not_isTestPort (b : Build) {i : Instr} (h : i.isTestPort = false) : i.wellFormed b = true := by
  have hindex : i.laneIndexOk = true := by
    cases i with
    | laneRead idx => cases h
    | _ => rfl
  simp [Instr.wellFormed, hindex, h]

theorem wellFormed_keccakF (b : Build) : Instr.keccakF.wellFormed b = b.testPort := by
  simp [Instr.wellFormed, Instr.laneIndexOk, Instr.isTestPort]

theorem wellFormed_laneRead_iff (b : Build) (idx : BitVec 5) :
    (Instr.laneRead idx).wellFormed b = true ↔ idx.toNat ≤ 24 ∧ b.testPort = true := by
  simp [Instr.wellFormed, Instr.laneIndexOk, Instr.isTestPort]

/-- A word that spells a row decodes to that row's command, if the command is legal (R82): the decoder's tests are
equalities of rows, which evaluate. -/
theorem decode_of_spells {b : Build} {w : Word} {i : Instr} (h : (rowOf i).spells w = true)
    (hwf : (readFields w i).wellFormed b = true) : decode b w = .ok (readFields w i) := by
  have hrows := spells_eq_of_spells (rowOf_mem_rows i) h
  simp only [rows, List.forall_mem_cons] at hrows
  obtain ⟨h1, h2, h3, h4, h5, h6, h7, h8, h9, h10, -⟩ := hrows
  cases i with
  | keccakF =>
    have hport : b.testPort = true := (wellFormed_keccakF b).symm.trans hwf
    simp only [decode, h1, h2, h3, h4, h5, h6, h7, h8, h9, hport]
    rfl
  | laneRead idx =>
    obtain ⟨hidx, hport⟩ := (wellFormed_laneRead_iff b _).1 hwf
    simp only [decode, h1, h2, h3, h4, h5, h6, h7, h8, h9, h10, hport, Nat.not_lt.2 hidx, if_false]
    rfl
  | _ =>
    simp only [decode, h1, h2, h3, h4, h5, h6, h7, h8]
    rfl

/-- What the decoder accepts, and as what (R80 to R82). -/
theorem decode_eq_ok_iff {b : Build} {w : Word} {i : Instr} :
    decode b w = .ok i ↔ (rowOf i).spells w = true ∧ readFields w i = i ∧ i.wellFormed b = true := by
  constructor
  · intro h
    simp only [decode, ite_eq_iff, Except.ok.injEq, reduceCtorEq, and_false, or_false, false_or] at h
    obtain ⟨hspells, rfl⟩ | ⟨-, ⟨hspells, rfl⟩ | ⟨-, ⟨hspells, rfl⟩ | ⟨-, ⟨hspells, rfl⟩ | ⟨-, ⟨hspells, rfl⟩ |
      ⟨-, ⟨hspells, rfl⟩ | ⟨-, ⟨hspells, rfl⟩ | ⟨-, ⟨hspells, rfl⟩ | ⟨-, ⟨hspells, hport, rfl⟩ |
      ⟨-, hspells, hidx, hport, rfl⟩⟩⟩⟩⟩⟩⟩⟩⟩ := h
    iterate 8 exact ⟨hspells, rfl, wellFormed_of_not_isTestPort b rfl⟩
    · exact ⟨hspells, rfl, (wellFormed_keccakF b).trans hport⟩
    · exact ⟨hspells, rfl, (wellFormed_laneRead_iff b _).2 ⟨Nat.not_lt.1 hidx, hport⟩⟩
  · rintro ⟨hspells, hfields, hwf⟩
    rw [← hfields] at hwf
    rw [decode_of_spells hspells hwf, hfields]

/-- What a core without the test port makes of a decoding by one that has it (R77). -/
def closePort : Except Illegal Instr → Except Illegal Instr
  | .ok i => if i.isTestPort then .error .testPortAbsent else .ok i
  | .error e => .error e

/-- The test port is looked at for KECCAK_F and LANE_READ only (R77). -/
theorem decode_without_port (w : Word) : decode ⟨false⟩ w = closePort (decode ⟨true⟩ w) := by
  simp only [decode, apply_ite closePort, Bool.false_eq_true, if_true, if_false]
  rfl

/-! ### The encoder -/

/-- A one-bit field above the low `m` bits is read at bit `m` (R78). -/
theorem getLsbD_ofBool_field {n m : Nat} (x : BitVec n) (e : Bool) (y : BitVec m) :
    (x ++ BitVec.ofBool e ++ y).getLsbD m = e := by
  rw [BitVec.getLsbD_append, BitVec.getLsbD_append]
  simp

theorem ofBit_toBit (d : Direction) : Direction.ofBit d.toBit = d := by
  cases d <;> rfl

/-- The fields of a command's word are its operands (R73 to R78). -/
theorem readFields_encode (i : Instr) : readFields (encode i) i = i := by
  cases i <;>
    simp (disch := decide) only [readFields, encode, getLsbD_ofBool_field, ofBit_toBit,
      BitVec.extractLsb'_append_eq_of_add_le, BitVec.extractLsb'_append_eq_of_le, Nat.reduceSub,
      BitVec.extractLsb'_eq_self]

theorem encode_spells (i : Instr) : (rowOf i).spells (encode i) = true := by
  cases i with
  | init rate cap sfx => exact Laws.EncodeSpellsRow.init rate cap sfx
  | absorb e b => exact Laws.EncodeSpellsRow.absorb e b
  | squeeze e => exact Laws.EncodeSpellsRow.squeeze e
  | xor b => exact Laws.EncodeSpellsRow.xor b
  | text d c => exact Laws.EncodeSpellsRow.text d c
  | alphaClear => exact Laws.EncodeSpellsRow.alphaClear
  | alphaAppend c => exact Laws.EncodeSpellsRow.alphaAppend c
  | status => exact Laws.EncodeSpellsRow.status
  | keccakF => exact Laws.EncodeSpellsRow.keccakF
  | laneRead idx => exact Laws.EncodeSpellsRow.laneRead idx

theorem toBit_ofBit (e : Bool) : (Direction.ofBit e).toBit = e := by
  cases e <;> rfl

/-- A flag is the one-bit slice at its position (R78). -/
theorem ofBool_getLsbD (w : Word) (k : Nat) : BitVec.ofBool (w.getLsbD k) = w.extractLsb' k 1 := by
  ext j hj
  obtain rfl : j = 0 := by omega
  simp

/-- The fields and the fixed bits of a row are the whole word: a word that spells a command's row is the word of the
row's command with its fields (R72 to R80). -/
theorem encode_readFields {i : Instr} {w : Word} (h : (rowOf i).spells w = true) : encode (readFields w i) = w := by
  cases i
  case' init =>
    rw [readFields, encode, ← slice_of_spells (r := rowInit) h 56 0x01#8 (by decide),
      ← slice_of_spells (r := rowInit) h 43 0#13 (by decide),
      ← slice_of_spells (r := rowInit) h 27 0#5 (by decide),
      ← slice_of_spells (r := rowInit) h 8 0#8 (by decide)]
  case' absorb =>
    rw [readFields, encode, ofBool_getLsbD, ← slice_of_spells (r := rowAbsorb) h 56 0x02#8 (by decide),
      ← slice_of_spells (r := rowAbsorb) h 9 0#47 (by decide)]
  case' squeeze =>
    rw [readFields, encode, ofBool_getLsbD, ← slice_of_spells (r := rowSqueeze) h 56 0x03#8 (by decide),
      ← slice_of_spells (r := rowSqueeze) h 9 0#47 (by decide),
      ← slice_of_spells (r := rowSqueeze) h 0 0#8 (by decide)]
  case' xor =>
    rw [readFields, encode, ← slice_of_spells (r := rowXor) h 56 0x04#8 (by decide),
      ← slice_of_spells (r := rowXor) h 8 0#48 (by decide)]
  case' text =>
    rw [readFields, encode, toBit_ofBit, ofBool_getLsbD, ← slice_of_spells (r := rowText) h 56 0x05#8 (by decide),
      ← slice_of_spells (r := rowText) h 33 0#23 (by decide)]
  case' alphaClear =>
    rw [readFields, encode, ← slice_of_spells (r := rowAlphaClear) h 56 0x06#8 (by decide),
      ← slice_of_spells (r := rowAlphaClear) h 0 0#56 (by decide)]
  case' alphaAppend =>
    rw [readFields, encode, ← slice_of_spells (r := rowAlphaAppend) h 56 0x07#8 (by decide),
      ← slice_of_spells (r := rowAlphaAppend) h 32 0#24 (by decide)]
  case' status =>
    rw [readFields, encode, ← slice_of_spells (r := rowStatus) h 56 0x08#8 (by decide),
      ← slice_of_spells (r := rowStatus) h 0 0#56 (by decide)]
  case' keccakF =>
    rw [readFields, encode, ← slice_of_spells (r := rowKeccakF) h 56 0x09#8 (by decide),
      ← slice_of_spells (r := rowKeccakF) h 0 0#56 (by decide)]
  case' laneRead =>
    rw [readFields, encode, ← slice_of_spells (r := rowLaneRead) h 56 0x0A#8 (by decide),
      ← slice_of_spells (r := rowLaneRead) h 5 0#51 (by decide)]
  all_goals
    simp (disch := decide) only [BitVec.extractLsb'_append_extractLsb'_eq_extractLsb']
    exact BitVec.extractLsb'_eq_self

/-- Settles O1: the command's word spells its row (`encode_spells`) and its fields are the operands. -/
theorem decodeOfEncodeIsTheCommand : Obligations.DecodeOfEncodeIsTheCommand := by
  intro b i hwf
  exact decode_eq_ok_iff.2 ⟨encode_spells i, readFields_encode i, hwf⟩

/-- Settles O2: the word spells the command's row and the operands are its fields, which with the row's fixed bits are
the whole word (`encode_readFields`). -/
theorem encodeOfDecodeIsTheWord : Obligations.EncodeOfDecodeIsTheWord := by
  intro b w i h
  obtain ⟨hspells, hfields, hwf⟩ := decode_eq_ok_iff.1 h
  have hword := encode_readFields hspells
  rw [hfields] at hword
  exact ⟨hword, hwf⟩

/-! ### Match and mask -/

/-- With the test port every command is legal but a LANE_READ above index 24, so a word spells a row exactly when it
decodes to a command of the row. -/
theorem decode_with_port_iff {w : Word} {i : Instr} :
    decode ⟨true⟩ w = .ok i ↔
      w &&& (rowOf i).mask = (rowOf i).pattern ∧ readFields w i = i ∧ i.laneIndexOk = true := by
  rw [decode_eq_ok_iff, spells_iff]
  simp [Instr.wellFormed]

/-- Settles O3, row by row: by `decode_with_port_iff` the word decodes to a command of the row, whose operands are
the fields of the word, exactly when it agrees with the pattern under the mask. -/
theorem wordSpellsCommandByMatchAndMask : Obligations.WordSpellsCommandByMatchAndMask := by
  intro w
  simp only [decode_with_port_iff]
  refine ⟨⟨fun ⟨_, _, _, h, _⟩ => h, fun h => ⟨_, _, _, h, rfl, rfl⟩⟩,
    ⟨fun ⟨_, _, h, _⟩ => h, fun h => ⟨_, _, h, rfl, rfl⟩⟩, ⟨fun ⟨_, h, _⟩ => h, fun h => ⟨_, h, rfl, rfl⟩⟩,
    ⟨fun ⟨_, h, _⟩ => h, fun h => ⟨_, h, rfl, rfl⟩⟩, ⟨fun ⟨_, _, h, _⟩ => h, fun h => ⟨_, _, h, rfl, rfl⟩⟩,
    ⟨fun ⟨h, _⟩ => h, fun h => ⟨h, rfl, rfl⟩⟩, ⟨fun ⟨_, h, _⟩ => h, fun h => ⟨_, h, rfl, rfl⟩⟩,
    ⟨fun ⟨h, _⟩ => h, fun h => ⟨h, rfl, rfl⟩⟩, ⟨fun ⟨h, _⟩ => h, fun h => ⟨h, rfl, rfl⟩⟩, ?_⟩
  have hindex : (Instr.laneRead (w.extractLsb' 0 5)).laneIndexOk = true ↔ w.toNat % 32 ≤ 24 := by
    simp [Instr.laneIndexOk]
  constructor
  · rintro ⟨idx, h, hfields, hle⟩
    rw [← hfields] at hle
    exact ⟨h, hindex.1 hle⟩
  · rintro ⟨h, hle⟩
    exact ⟨_, h, rfl, hindex.2 hle⟩

/-! ### Operand fields as numbers -/

/-- A field is a quotient and remainder of the word as a number (R78). -/
theorem toNat_extractLsb' (w : Word) (k n : Nat) : (w.extractLsb' k n).toNat = w.toNat / 2 ^ k % 2 ^ n := by
  rw [BitVec.extractLsb'_toNat, Nat.shiftRight_eq_div_pow]

/-- A flag is the parity of a quotient of the word as a number (R78). -/
theorem getLsbD_iff (w : Word) (k : Nat) : w.getLsbD k = true ↔ w.toNat / 2 ^ k % 2 = 1 := by
  rw [BitVec.getLsbD, Nat.testBit_eq_decide_div_mod_eq, decide_eq_true_iff]

theorem ofBit_eq_decrypt_iff (e : Bool) : Direction.ofBit e = .decrypt ↔ e = true := by
  cases e <;> simp [Direction.ofBit]

/-- The operands of a decoded command are the fields of its word (R78, R82). -/
theorem readFields_of_decode {b : Build} {w : Word} {i : Instr} (h : decode b w = .ok i) : readFields w i = i :=
  (decode_eq_ok_iff.1 h).2.1

/-- Settles O4: the operands are the fields that `readFields` names, read as numbers. -/
theorem operandFieldsAreReadStraight : Obligations.OperandFieldsAreReadStraight := by
  intro b w
  have hlow (n : Nat) : (w.extractLsb' 0 n).toNat = w.toNat % 2 ^ n := by
    rw [toNat_extractLsb', Nat.pow_zero, Nat.div_one]
  refine ⟨fun r c f h => ?_, fun e x h => ?_, fun e h => ?_, fun x h => ?_, fun d c h => ?_, fun c h => ?_,
    fun idx h => ?_⟩ <;> cases readFields_of_decode h
  · exact ⟨toNat_extractLsb' w 32 11, toNat_extractLsb' w 16 11, hlow 8⟩
  · exact ⟨getLsbD_iff w 8, hlow 8⟩
  · exact getLsbD_iff w 8
  · exact hlow 8
  · exact ⟨(ofBit_eq_decrypt_iff _).trans (getLsbD_iff w 32), hlow 32⟩
  · exact hlow 32
  · exact hlow 5

/-! ### The build without the test port -/

/-- Settles O5, from what `closePort` makes of the three kinds of decodings. -/
theorem testPortCommandsNeedTheTestPort : Obligations.TestPortCommandsNeedTheTestPort := by
  intro w
  refine ⟨fun i h hport => ?_, fun i h hport => ?_, fun e h => ?_⟩ <;> rw [decode_without_port, h]
  · simp [closePort, hport]
  · simp [closePort, hport]
  · rfl

/-! ### Words written out -/

/-- A word that is the encoding of a legal command decodes to it. -/
theorem decode_eq_of_encode_eq {b : Build} {i : Instr} {w : Word} (h : encode i = w ∧ i.wellFormed b = true) :
    decode b w = .ok i := by
  obtain ⟨rfl, hwf⟩ := h
  exact decodeOfEncodeIsTheCommand b i hwf

/-- Settles O6: each word is the encoding of its command. -/
theorem writtenOutWordsDecode : Obligations.WrittenOutWordsDecode := by
  refine ⟨?_, ?_, ?_, ?_, ?_, ?_, ?_, ?_, ?_, ?_, ?_, ?_⟩ <;> exact decode_eq_of_encode_eq (by decide)

end Sys2Proof
end

section
/-! SUPPORT. The assembler (30_encoding.md R88): the number that each line's word is. -/

namespace Sys2Proof.Machine

/-- A word as a number is its high part at its place and its low part. -/
theorem toNat_append_eq_add {n m : Nat} (x : BitVec n) (y : BitVec m) :
    (x ++ y).toNat = x.toNat * 2 ^ m + y.toNat := by
  rw [BitVec.toNat_append, ← Nat.shiftLeft_add_eq_or_of_lt y.isLt, Nat.shiftLeft_eq]

section
variable (rate cap : BitVec 11) (b : Byte) (c : CharCode) (idx : BitVec 5)

theorem toNat_encode_init :
    (encode (.init rate cap b)).toNat = 2 ^ 56 + rate.toNat * 2 ^ 32 + cap.toNat * 2 ^ 16 + b.toNat := by
  simp only [encode, toNat_append_eq_add, BitVec.toNat_ofNat]
  omega

theorem toNat_encode_absorb : (encode (.absorb false b)).toNat = 2 * 2 ^ 56 + b.toNat := by
  simp only [encode, toNat_append_eq_add, BitVec.toNat_ofNat, BitVec.toNat_ofBool, Bool.toNat_false]
  omega

theorem toNat_encode_xor : (encode (.xor b)).toNat = 4 * 2 ^ 56 + b.toNat := by
  simp only [encode, toNat_append_eq_add, BitVec.toNat_ofNat]
  omega

theorem toNat_encode_text (d : Direction) :
    (encode (.text d c)).toNat = 5 * 2 ^ 56 + d.toBit.toNat * 2 ^ 32 + c.toNat := by
  simp only [encode, toNat_append_eq_add, BitVec.toNat_ofNat, BitVec.toNat_ofBool]
  omega

theorem toNat_encode_alphaAppend : (encode (.alphaAppend c)).toNat = 7 * 2 ^ 56 + c.toNat := by
  simp only [encode, toNat_append_eq_add, BitVec.toNat_ofNat]
  omega

theorem toNat_encode_laneRead : (encode (.laneRead idx)).toNat = 10 * 2 ^ 56 + idx.toNat := by
  simp only [encode, toNat_append_eq_add, BitVec.toNat_ofNat]
  omega

end

theorem toNat_ofNat_of_lt {width n : Nat} (h : n < 2 ^ width) : (BitVec.ofNat width n).toNat = n := by
  rw [BitVec.toNat_ofNat, Nat.mod_eq_of_lt h]

/-- An operand that fits its field. -/
theorem asField_of_lt {width n : Nat} (h : n < 2 ^ width) : asField width n = some (BitVec.ofNat width n) := if_pos h

/-- An operand that does not fit is refused, never truncated (R88). -/
theorem asField_of_ge {width n : Nat} (h : 2 ^ width ≤ n) : asField width n = none := if_neg (Nat.not_lt.2 h)

/-- A line with one operand: the word of its command where the operand fits, as a number, and no word where it does
not (R88). -/
theorem word_of_field {width n v : Nat} (command : BitVec width → Instr)
    (hword : ∀ x : BitVec width, x.toNat = n → (encode (command x)).toNat = v) :
    (((asField width n).map command).map encode).map BitVec.toNat = if n < 2 ^ width then some v else none := by
  split
  · next h =>
    rw [asField_of_lt h]
    exact congrArg some (hword _ (toNat_ofNat_of_lt h))
  · next h =>
    rw [asField_of_ge (Nat.not_lt.1 h)]
    rfl

/-- INIT has three operands: each fits its field, or there is no word (R88). -/
theorem assemble_init (r c f : Nat) : (assemble (.init r c f)).map BitVec.toNat =
    if r < 2048 ∧ c < 2048 ∧ f < 256 then some (2 ^ 56 + r * 2 ^ 32 + c * 2 ^ 16 + f) else none := by
  split
  · next h =>
    obtain ⟨hr, hc, hf⟩ := h
    simp only [assemble, instrOfLine, asField_of_lt (width := 11) hr, asField_of_lt (width := 11) hc,
      asField_of_lt (width := 8) hf, Option.map_some, toNat_encode_init, toNat_ofNat_of_lt (width := 11) hr,
      toNat_ofNat_of_lt (width := 11) hc, toNat_ofNat_of_lt (width := 8) hf]
  · next h =>
    have hnone : asField 11 r = none ∨ asField 11 c = none ∨ asField 8 f = none := by
      by_cases hr : r < 2048
      · by_cases hc : c < 2048
        · exact .inr (.inr (asField_of_ge (by omega)))
        · exact .inr (.inl (asField_of_ge (Nat.not_lt.1 hc)))
      · exact .inl (asField_of_ge (Nat.not_lt.1 hr))
    obtain hr | hc | hf := hnone
    · simp [assemble, instrOfLine, hr]
    · simp [assemble, instrOfLine, hc]
    · simp [assemble, instrOfLine, hf]

/-- LANE_READ's operand is checked against 24, not against its field's width (R88). -/
theorem assemble_laneRead (i : Nat) : (assemble (.laneRead i)).map BitVec.toNat =
    if i ≤ 24 then some (10 * 2 ^ 56 + i) else none := by
  split
  · next h =>
    have hfits : i < 2 ^ 5 := by omega
    simp only [assemble, instrOfLine, if_pos h, Option.map_some, toNat_encode_laneRead,
      toNat_ofNat_of_lt hfits]
  · next h => simp only [assemble, instrOfLine, if_neg h, Option.map_none]

/-- Settles O7: a line with one operand is `word_of_field`'s, with the number of its command's word; INIT and
LANE_READ have their own checks; and a line without operands has one word. -/
theorem assemblerEncodesOrRefuses : Obligations.AssemblerEncodesOrRefuses := by
  refine ⟨assemble_init, fun b => ?_, fun b => ?_, fun c => ?_, fun c => ?_, fun c => ?_, assemble_laneRead, by decide,
    by decide, by decide, by decide, by decide, by decide⟩
  · exact word_of_field (width := 8) (.absorb false) fun x hx => by rw [toNat_encode_absorb, hx]
  · exact word_of_field (width := 8) .xor fun x hx => by rw [toNat_encode_xor, hx]
  · exact word_of_field (.text .encrypt) fun x hx => by rw [toNat_encode_text, hx]; rfl
  · exact word_of_field (.text .decrypt) fun x hx => by rw [toNat_encode_text, hx]; rfl
  · exact word_of_field .alphaAppend fun x hx => by rw [toNat_encode_alphaAppend, hx]

end Sys2Proof.Machine
end

section
/-! SUPPORT. The bounded rejection loop is the rule's unbounded one (42_keystream.md R164): what a draw writes is
different at every draw of a loop that ends, so the loop ends within as many draws as that has values. -/

namespace Sys2Proof.Machine

/-- What a draw writes (R140, R164). -/
abbrev Sampling := Lanes × Byte

/-- The state with these lanes and this `squeezed`. -/
def State.withSampling (s : State) (p : Sampling) : State := { s with lane := p.1, squeezed := p.2 }

/-- A sampling as digits: 25 of 64 bits and one of 8. -/
def samplingDigits (p : Sampling) : (Fin 25 → Fin (2 ^ 64)) × Fin (2 ^ 8) := (fun i => p.1[i].toFin, p.2.toFin)

theorem samplingDigits_injective : Function.Injective samplingDigits := by
  rintro ⟨L, q⟩ ⟨M, r⟩ h
  obtain ⟨hlanes, hq⟩ := Prod.mk.inj h
  have hL : L = M := by
    apply Vector.ext
    intro i hi
    exact BitVec.eq_of_toFin_eq (congrFun hlanes ⟨i, hi⟩)
  have hqr : q = r := BitVec.eq_of_toFin_eq hq
  rw [hL, hqr]

/-- The number of values of `n` digits of `a` bits and one of `b` bits. -/
theorem card_digits (n a b : Nat) : Fintype.card ((Fin n → Fin (2 ^ a)) × Fin (2 ^ b)) = 2 ^ (a * n + b) := by
  simp only [Fintype.card_prod, Fintype.card_fun, Fintype.card_fin, pow_mul, pow_add]

/-- The bound with its exponent written as the bits of 25 lanes and `squeezed`; for a variable exponent, so that no
power is evaluated. -/
theorem drawBound_eq {n : Nat} (h : 1608 = n) : drawBound = 2 ^ n := by
  unfold drawBound
  exact congrArg _ h

/-- There are as many samplings as `drawBound` allows draws. -/
theorem length_le_drawBound {l : List Sampling} (h : l.Nodup) : l.length ≤ drawBound := by
  calc l.length
      = (l.map samplingDigits).length := (List.length_map _).symm
    _ ≤ Fintype.card ((Fin 25 → Fin (2 ^ 64)) × Fin (2 ^ 8)) := (h.map samplingDigits_injective).length_le_card
    _ = 2 ^ (64 * 25 + 8) := card_digits 25 64 8
    _ = drawBound := (drawBound_eq (n := 64 * 25 + 8) rfl).symm

section
variable {L : Nat}

/-- A draw that accepts (R164). -/
theorem drawKey_succ_of_lt {s t : State} {k : Byte} (h : squeezeByte s = .ok (k, t)) (hk : k.toNat < L) (n : Nat) :
    drawKey L (n + 1) s = .key k t := by
  simp only [drawKey, h, hk, if_true]

/-- A draw that discards, and the loop goes on (R164). -/
theorem drawKey_succ_of_not_lt {s t : State} {k : Byte} (h : squeezeByte s = .ok (k, t)) (hk : ¬ k.toNat < L)
    (n : Nat) : drawKey L (n + 1) s = drawKey L n t := by
  simp only [drawKey, h, hk, if_false]

/-- More draws do not change a loop that has ended. -/
theorem drawKey_eq_of_le {m n : Nat} {s : State} (hmn : m ≤ n) (h : drawKey L m s ≠ .none) :
    drawKey L n s = drawKey L m s := by
  induction m generalizing n s with
  | zero => exact absurd rfl h
  | succ m ih =>
    obtain ⟨n, rfl⟩ : ∃ n', n = n' + 1 := ⟨n - 1, by omega⟩
    simp only [drawKey] at h ⊢
    split
    · rfl
    · next k t hs =>
      simp only [hs] at h
      split
      · rfl
      · next hk =>
        rw [if_neg hk] at h
        exact ih (Nat.le_of_succ_le_succ hmn) h

/-- A loop of `m` discarded draws and one accepted visits `m + 1` different samplings: from each of them the loop
ends within `m + 1` draws, and one more discarded draw in front needs one draw more (R164). -/
theorem exists_visited_of_drawsKey {s t : State} {k : Byte} (h : DrawsKey L s k t) :
    ∃ (m : Nat) (visited : List Sampling), visited.Nodup ∧ visited.length = m + 1 ∧
      drawKey L m s = .none ∧ drawKey L (m + 1) s = .key k t ∧
      ∀ p ∈ visited, drawKey L (m + 1) (s.withSampling p) ≠ .none := by
  induction h with
  | @accept s k t hs hk =>
    have hkey := drawKey_succ_of_lt hs hk 0
    refine ⟨0, [(s.lane, s.squeezed)], List.nodup_singleton _, rfl, rfl, hkey, fun p hp => ?_⟩
    rw [List.mem_singleton.1 hp]
    exact fun hnone => by cases hkey.symm.trans hnone
  | @discard s x u k t hs hx _ ih =>
    obtain ⟨m, visited, hnodup, hlength, hnone, hkey, hends⟩ := ih
    have hnone' : drawKey L (m + 1) s = .none := (drawKey_succ_of_not_lt hs hx m).trans hnone
    have hkey' : drawKey L (m + 2) s = .key k t := (drawKey_succ_of_not_lt hs hx (m + 1)).trans hkey
    have hends' : ∀ p ∈ visited, drawKey L (m + 1) (s.withSampling p) ≠ .none := by
      rw [squeezeByte_frame hs] at hends
      exact hends
    refine ⟨m + 1, (s.lane, s.squeezed) :: visited, List.nodup_cons.2 ⟨fun hmem => hends' _ hmem hnone', hnodup⟩,
      congrArg Nat.succ hlength, hnone', hkey', fun p hp => ?_⟩
    obtain rfl | hp := List.mem_cons.1 hp
    · exact fun hn => by cases hkey'.symm.trans hn
    · rw [drawKey_eq_of_le (Nat.le_succ _) (hends' p hp)]
      exact hends' p hp

/-- The model's bound is no bound: it finds every key of the rule's loop (R164, assumption log 3). -/
theorem drawKey_drawBound_iff {s t : State} {k : Byte} :
    drawKey L drawBound s = .key k t ↔ DrawsKey L s k t := by
  refine ⟨drawKey_key, fun h => ?_⟩
  obtain ⟨m, visited, hnodup, hlength, -, hkey, -⟩ := exists_visited_of_drawsKey h
  have hm : m + 1 ≤ drawBound := hlength ▸ length_le_drawBound hnodup
  rw [drawKey_eq_of_le hm (by rw [hkey]; exact Draw.noConfusion), hkey]

/-- A loop that the bound cuts accepts no draw at all (R164, R249). -/
theorem not_drawsKey_of_drawKey_none {s : State} (h : drawKey L drawBound s = .none) (k : Byte) (u : State) :
    ¬ DrawsKey L s k u := by
  intro hdraws
  rw [drawKey_drawBound_iff.2 hdraws] at h
  cases h

end

end Sys2Proof.Machine
end

section
/-! SUPPORT. How a command ends (30_encoding.md R83 to R87, 60_exceptions.md R213 to R216), said once for every command,
and the port (R87, R227). -/

namespace Sys2Proof.Machine

/-! ### How a command ends -/

/-- How a command can end: refused on a FAULTED core (R216), with a fatal error on one that is not (R213), with an OK
response that leaves the port no busier (R83), or in flight for ever (R164, R249). -/
inductive Ending (i : Instr) (s t : State) : Prop where
  | refused (hflt : s.flt = true) (ht : t = respond .faulted 0 s)
  | failed (code : RspCode) (hflt : s.flt = false) (hcode : code ≠ .ok ∧ code ≠ .faulted) (ht : t = fatal code s)
  | answered (x : Word) (u : State) (ht : t = respond .ok x u) (hbusy : u.busy = s.busy)
  | inFlight (htext : ∃ d c, i = .text d c) (hloop : ∀ k u, ¬ DrawsKey s.alen.toNat s k u)
      (ht : t = { s with busy := true })

section
variable {s t : State} {i : Instr}

/-- A prologue that ends a command refuses it or raises a fatal error (R215). STATUS, the one command that passes it
on a FAULTED core, is well-formed and needs no session. -/
theorem ending_of_check_eq_some (h : check (some i) (needsSession i) s = some t) : Ending i s t := by
  obtain ⟨hflt, -, ht⟩ | ⟨hflt, hwf, ht⟩ | ⟨hflt, -, hn, -, ht⟩ := check_eq_some _ _ _ _ h
  · exact .refused hflt ht
  · refine .failed .illegal (hflt.resolve_right fun hi => ?_) (by decide) ht
    cases hi
    cases (hwf .status rfl).symm.trans (wellFormed_of_not_isTestPort _ rfl)
  · refine .failed .noSession (hflt.resolve_right fun hi => ?_) (by decide) ht
    cases hi
    cases hn

/-- Only STATUS passes its prologue on a FAULTED core (R215). -/
theorem flt_of_check_eq_none {n : Bool} (h : check (some i) n s = none) (hi : i ≠ .status) : s.flt = false :=
  ((check_eq_none_iff i n s).1 h).1.resolve_right hi

/-- Every command ends in one of the ways of `Ending`. -/
theorem exec_ending (h : exec i s = .next t) : Ending i s t := by
  cases i with
  | init rate cap sfx =>
    obtain hc | ⟨hc, ⟨-, ht⟩ | ⟨-, ht⟩⟩ := execInit_cases h
    · exact ending_of_check_eq_some hc
    · exact .answered _ _ ht rfl
    · exact .failed .config (flt_of_check_eq_none hc (by simp)) (by decide) ht
  | absorb e b =>
    obtain hc | ⟨hc, ⟨-, ht⟩ | ⟨-, -, ht⟩ | ⟨-, -, u, hu, ht⟩⟩ := execAbsorb_cases h
    · exact ending_of_check_eq_some hc
    · exact .failed .order (flt_of_check_eq_none hc (by simp)) (by decide) ht
    · exact .answered _ _ ht rfl
    · exact .answered _ u ht (by rw [(absorbByte_ok hu).2])
  | squeeze e =>
    obtain hc | ⟨-, ⟨-, u, hu, ht⟩ | ⟨-, k, u, hu, ht⟩⟩ := execSqueeze_cases h
    · exact ending_of_check_eq_some hc
    · exact .answered _ u ht (by rw [closeAbsorbPhase_frame hu])
    · exact .answered _ u ht (by rw [squeezeByte_frame hu])
  | xor b =>
    obtain hc | ⟨-, k, u, hu, ht⟩ := execXor_cases h
    · exact ending_of_check_eq_some hc
    · exact .answered _ u ht (by rw [squeezeByte_frame hu])
  | text d c =>
    obtain hc | ⟨-, ⟨-, ht⟩ | ⟨j, -, ⟨k, u, hu, ht⟩ | ⟨hnone, ht⟩⟩⟩ := execText_cases h
    · exact ending_of_check_eq_some hc
    · exact .answered _ _ ht rfl
    · exact .answered _ u ht (by rw [(drawsKey_frame (drawKey_key hu)).2])
    · exact .inFlight ⟨d, c, rfl⟩ (not_drawsKey_of_drawKey_none hnone) ht
  | alphaClear =>
    obtain hc | ⟨-, ht⟩ := execAlphaClear_cases h
    · exact ending_of_check_eq_some hc
    · exact .answered _ _ ht rfl
  | alphaAppend c =>
    obtain hc | ⟨hc, ⟨_, ht⟩ | ⟨-, ht⟩⟩ := execAlphaAppend_cases h
    · exact ending_of_check_eq_some hc
    · exact .answered _ _ ht rfl
    · exact .failed .config (flt_of_check_eq_none hc (by simp)) (by decide) ht
  | status =>
    rw [exec, execStatus_eq] at h
    cases h
    exact .answered _ s rfl rfl
  | keccakF =>
    obtain hc | ⟨-, ht⟩ := execKeccakF_cases h
    · exact ending_of_check_eq_some hc
    · exact .answered _ _ ht rfl
  | laneRead idx =>
    obtain hc | ⟨-, ht⟩ := execLaneRead_cases h
    · exact ending_of_check_eq_some hc
    · exact .answered _ _ ht rfl

end

/-- Settles O45: of the ways a command can end, a response that is not OK is a refusal's or a fatal error's. -/
theorem failingCommandChangesOnlyTheFault : Obligations.FailingCommandChangesOnlyTheFault := by
  intro s t i code x hport h hrsp hcode
  cases exec_ending h with
  | refused hflt ht =>
    subst ht
    cases hrsp
    exact ⟨rfl, .inr ⟨hflt, rfl, rfl⟩⟩
  | failed raised hflt hraised ht =>
    subst ht
    cases hrsp
    exact ⟨rfl, .inl ⟨hflt, hraised.2, rfl⟩⟩
  | answered y u ht _ =>
    subst ht
    cases hrsp
    exact absurd rfl hcode
  | inFlight _ _ ht =>
    subst ht
    cases hport.symm.trans hrsp

/-- Settles O47: every way a command can end but the last leaves a response. -/
theorem everyCommandAnswersOnce : Obligations.EveryCommandAnswersOnce := by
  intro s t i _ h
  cases exec_ending h with
  | refused _ ht => exact .inl ⟨_, by rw [ht, respond_rsp], by rw [ht, respond_busy]⟩
  | failed code _ _ ht => exact .inl ⟨_, by rw [ht, fatal_rsp], by rw [ht, fatal_busy]⟩
  | answered x u ht hbusy => exact .inl ⟨_, by rw [ht, respond_rsp], by rw [ht, respond_busy, hbusy]⟩
  | inFlight htext hloop ht => exact .inr ⟨ht, htext, hloop⟩

/-- On a FAULTED core the prologue refuses every command but STATUS (R215, R216). -/
theorem check_of_flt {s : State} {i : Instr} (n : Bool) (hflt : s.flt = true) (hi : i ≠ .status) :
    check (some i) n s = some (respond .faulted 0 s) := by
  simp [check, hflt, hi]

/-- Settles O42: the prologue's refusal ends the command, and the codes are read off R84's table. -/
theorem faultedCoreRefusesEverythingButStatus : Obligations.FaultedCoreRefusesEverythingButStatus := by
  refine ⟨fun s i hflt hi => exec_of_check_eq_some (check_of_flt _ hflt hi), rfl, rfl, rfl, rfl, rfl, rfl, fun code => ?_⟩
  cases code <;> decide

/-! ### The port -/

/-- A step on a ready port, with an illegal word as the host's next action (R81, R87). -/
theorem step_command_of_decode_error {s : State} {w : Word} {rest : List PortInput} {e : Illegal}
    (hin : s.inputs = .command w :: rest) (hready : s.cmdReady = true) (hdec : decode s.build w = .error e) :
    step s = execIllegal { s with inputs := rest } := by
  simp only [step, hin, hready, hdec, if_true]

/-- Settles O44: the step is `execIllegal_eq`'s, on the state with the word taken from the port. -/
theorem illegalWordIsFatal : Obligations.IllegalWordIsFatal := by
  intro s w rest e hin hready hdec
  rw [step_command_of_decode_error hin hready hdec, execIllegal_eq]
  rfl

/-- A command waits where the port is not ready (R87). -/
theorem step_command_of_not_ready {s : State} {w : Word} {rest : List PortInput}
    (hin : s.inputs = .command w :: rest) (hready : s.cmdReady = false) : step s = .next s := by
  simp only [step, hin, hready, Bool.false_eq_true, if_false]

/-- Settles O49, along the host's next action: none, a command that the port does not accept, or a delivery. -/
theorem portHoldsCommandsUntilReady : Obligations.PortHoldsCommandsUntilReady := by
  refine ⟨fun s hin => ?_, fun s w rest hin hport => ?_, fun s rest hin => ?_⟩
  · simp only [step, hin]
  · refine step_command_of_not_ready hin (Bool.eq_false_iff.2 fun hready => ?_)
    obtain ⟨hbusy, hrsp⟩ := (cmdReady_iff s).1 hready
    simp [hbusy, hrsp] at hport
  · simp only [step, hin, deliver]

end Sys2Proof.Machine
end

section
/-! SUPPORT. The Permutation Engine (40_permutation.md): each step of a round at a position of the grid (R102 to R108),
the rounds in order (R101), the generating rules of the constant tables (R113), and the test port's commands (R114,
R191). -/

namespace Sys2Proof.Machine

/-! ### Rotation -/

/-- The model's rotation is the rotation of 64-bit words, at every amount that a lane can be rotated by (R10). -/
theorem rotl64_eq_rotateLeft (v : Word) {n : Nat} (hn : n < 64) : rotl64 v n = v.rotateLeft n := by
  rw [BitVec.rotateLeft_def, Nat.mod_eq_of_lt hn]
  by_cases h0 : n = 0
  · subst h0
    simp [rotl64, BitVec.ushiftRight_eq_zero]
  · rw [rotl64, if_neg h0]

/-! ### Theta -/

theorem getElem_columnParity (A : Lanes) (x : Fin 5) :
    (columnParity A)[x] =
      laneAt A x 0 ^^^ laneAt A x 1 ^^^ laneAt A x 2 ^^^ laneAt A x 3 ^^^ laneAt A x 4 := by
  simp [columnParity]

/-- `D[x]` is made of the parities of the two neighbouring columns; x + 4 is x - 1 mod 5 (R102). -/
theorem getElem_thetaMask (A : Lanes) (x : Fin 5) :
    (thetaMask A)[x] = (columnParity A)[x - 1] ^^^ (columnParity A)[x + 1].rotateLeft 1 := by
  have hleft : x - 1 = x + 4 := by omega
  simp only [hleft, ← rotl64_eq_rotateLeft _ (show 1 < 64 by decide)]
  simp [thetaMask]

theorem laneAt_thetaStep (A : Lanes) (x y : Fin 5) :
    laneAt (thetaStep A) x y = laneAt A x y ^^^ (thetaMask A)[x] := by
  simp [thetaStep]

/-- Settles O8: theta XORs `D[x]`, which `getElem_thetaMask` makes of two column parities. -/
theorem thetaXorsColumnParities : Obligations.ThetaXorsColumnParities := by
  intro A x y
  simp only [laneAt_thetaStep, getElem_thetaMask, getElem_columnParity]

/-! ### Rho and pi -/

theorem rhoOffsets_lt (i : Fin 25) : rhoOffsets[i] < 64 := by
  revert i
  decide

theorem getElem_rhoStep (A : Lanes) (i : Fin 25) : (rhoStep A)[i] = A[i].rotateLeft rhoOffsets[i] := by
  rw [← rotl64_eq_rotateLeft _ (rhoOffsets_lt i)]
  simp [rhoStep]

/-- A destination lane is its source lane (R105, R106). -/
theorem getElem_piStep {j i : Fin 25} (h : piSource[j] = i) (A : Lanes) : (piStep A)[j] = A[i] := by
  subst h
  simp [piStep]

/-- The table of source lanes holds, at (y, 2x + 3y), the lane index of (x, y) (R105, R106). -/
theorem piSource_at_destination : ∀ x y : Fin 5, piSource[laneIndex y (2 * x + 3 * y)] = laneIndex x y := by
  decide

/-- Pi's map of grid positions (R105). -/
def piMove (p : Fin 5 × Fin 5) : Fin 5 × Fin 5 := (p.2, 2 * p.1 + 3 * p.2)

/-- The map back from a destination: 3 is the inverse of 2 mod 5. -/
def piMoveBack (q : Fin 5 × Fin 5) : Fin 5 × Fin 5 := (3 * (q.2 - 3 * q.1), q.1)

theorem piMove_bijective : Function.Bijective piMove := by
  have hback : Function.LeftInverse piMoveBack piMove := by decide
  have hforth : Function.RightInverse piMoveBack piMove := by decide
  exact Function.bijective_iff_has_inverse.2 ⟨piMoveBack, hback, hforth⟩

/-- Settles O9: the source table agrees with the map of R105 at all positions, and the map has an inverse. -/
theorem piMovesEveryLane : Obligations.PiMovesEveryLane :=
  ⟨fun A x y => getElem_piStep (piSource_at_destination x y) A, piMove_bijective⟩

/-- `PI_DEST`: the destination lane of each source lane (R106). -/
def piDestination : Vector (Fin 25) 25 :=
  #v[0, 10, 20, 5, 15, 16, 1, 11, 21, 6, 7, 17, 2, 12, 22, 23, 8, 18, 3, 13, 14, 24, 9, 19, 4]

/-- The two tables of R106 are inverse to each other. -/
theorem piSource_piDestination : ∀ i : Fin 25, piSource[piDestination[i]] = i := by
  decide

/-- Settles O10: pi takes the lane from its source, where rho has rotated it. -/
theorem rhoThenPiIsOneRelocatingPass : Obligations.RhoThenPiIsOneRelocatingPass := by
  intro A i
  calc (piStep (rhoStep A))[piDestination[i]]
      = (rhoStep A)[i] := getElem_piStep (piSource_piDestination i) (rhoStep A)
    _ = A[i].rotateLeft rhoOffsets[i] := getElem_rhoStep A i

/-! ### Chi and iota -/

theorem laneAt_chiStep (A : Lanes) (x y : Fin 5) :
    laneAt (chiStep A) x y = laneAt A x y ^^^ (~~~(laneAt A (x + 1) y) &&& laneAt A (x + 2) y) := by
  rw [chiStep, laneAt_lanesOf]

/-- Settles O11: bit by bit, the bits of `laneAt_chiStep`'s lane; the complement's bit needs k to be below 64. -/
theorem chiCombinesInputLanesOfARow : Obligations.ChiCombinesInputLanesOfARow := by
  intro A x y k hk
  rw [laneAt_chiStep, BitVec.getLsbD_xor, BitVec.getLsbD_and, BitVec.getLsbD_not, decide_eq_true hk, Bool.true_and]

/-- Settles O12: iota writes lane 0 and no other. -/
theorem iotaChangesLaneZeroOnly : Obligations.IotaChangesLaneZeroOnly := by
  intro A i j
  by_cases hj : j = 0
  · subst hj
    simp [iotaStep]
  · have hne : 0 ≠ j.val := fun h => hj (Fin.ext h.symm)
    simp [iotaStep, hj, Vector.getElem_set_ne _ _ hne]

/-! ### The rounds -/

/-- A fold over the round numbers as naturals is the fold over them as the indices they are. -/
theorem foldl_range_eq_foldl_finRange {α : Type} (n : Nat) [NeZero n] (f : α → Fin n → α) (a : α) :
    (List.range n).foldl (fun b i => f b (Fin.ofNat n i)) a = (List.finRange n).foldl f a := by
  rw [← List.map_coe_finRange_eq_range, List.foldl_map]
  simp only [Fin.ofNat_val_eq_self]

/-- Settles O13: the model folds `keccakRound`, which is the five steps, over the 24 round numbers. -/
theorem keccakRunsTwentyFourRounds : Obligations.KeccakRunsTwentyFourRounds := by
  intro A
  rw [keccakF]
  exact (foldl_range_eq_foldl_finRange 24 keccakRound A).symm

/-! ### The generating rules -/

/-- The walk of R113 meets every lane but 0 once, with the offset of R104. -/
theorem generatedRho_eq : generatedRho = rhoOffsets := by
  decide

/-- The LFSR of R113 gives the 24 round constants of R109: a closed evaluation of its first 168 bits, seven for each
round. -/
theorem generatedRoundConstant_eq : ∀ i : Fin 24, generatedRoundConstant i.val = roundConstants[i] := by
  decide +kernel

/-- Settles O14: the walk gives the one table, the LFSR the other. -/
theorem generatingRulesReproduceTheTables : Obligations.GeneratingRulesReproduceTheTables :=
  ⟨generatedRho_eq, generatedRoundConstant_eq⟩

/-! ### The test port's commands -/

/-- Settles O41: both commands pass the prologue, LANE_READ because its index is legal. -/
theorem testPortCommandsReadAndPermuteLanes : Obligations.TestPortCommandsReadAndPermuteLanes := by
  intro s hflt hcfg hport
  refine ⟨fun idx hidx => ?_, ?_⟩
  · have hwf : (Instr.laneRead idx).wellFormed s.build = true :=
      (wellFormed_laneRead_iff _ _).2 ⟨Nat.le_of_lt_succ hidx, hport⟩
    have hlane : s.lane[Fin.ofNat 25 idx.toNat] = s.lane[idx.toNat] := by
      simp only [Fin.getElem_fin, Fin.val_ofNat, Nat.mod_eq_of_lt hidx]
    rw [exec, execLaneRead_of_check_eq_none (check_passes hflt hwf fun _ => hcfg), hlane]
    rfl
  · have hwf : Instr.keccakF.wellFormed s.build = true := (wellFormed_keccakF _).trans hport
    rw [exec, execKeccakF_of_check_eq_none (check_passes hflt hwf fun _ => hcfg)]
    rfl

end Sys2Proof.Machine
end

section
/-! SUPPORT. The Sponge Engine (41_sponge.md): what INIT, ABSORB and SQUEEZE do (R131 to R142), then a whole block
(R144, R193, R194), and the first keystream command of a session (R142). -/

namespace Sys2Proof.Machine

/-! ### INIT -/

/-- INIT's check as an equation of natural numbers (R131). -/
theorem configLegal_iff (rate cap : BitVec 11) :
    configLegal rate cap = true ↔ rate.toNat + cap.toNat = 1600 ∧ rate.toNat % 8 = 0 ∧ rate.toNat ≠ 0 := by
  simp [configLegal, and_assoc]

/-- INIT on a core that is not FAULTED (R131). -/
theorem exec_init {s : State} (rate cap : BitVec 11) (sfx : Byte) (hflt : s.flt = false) :
    exec (.init rate cap sfx) s = .next
      (if configLegal rate cap then respond .ok 0 (startSession rate sfx s) else fatal .config s) := by
  have hc : check (some (.init rate cap sfx)) false s = none :=
    check_passes hflt (wellFormed_of_not_isTestPort _ rfl) (by simp)
  simp only [exec, execInit, hc]
  split <;> rfl

/-- Settles O17: INIT's check is the condition stated, and the two states are the new session and the fatal error. -/
theorem initStartsASessionOrFaults : Obligations.InitStartsASessionOrFaults := by
  intro s rate cap sfx hflt
  simp only [exec_init rate cap sfx hflt, configLegal_iff]
  rfl

/-- INIT answers OK exactly when its configuration is legal (R131). -/
theorem exec_init_answers_ok_iff {s : State} (rate cap : BitVec 11) (sfx : Byte) (hflt : s.flt = false) :
    (∃ t, exec (.init rate cap sfx) s = .next t ∧ t.rsp = some ⟨.ok, 0⟩) ↔ configLegal rate cap = true := by
  rw [exec_init rate cap sfx hflt]
  constructor
  · rintro ⟨t, ht, hrsp⟩
    by_contra hl
    rw [if_neg hl] at ht
    cases ht
    cases hrsp
  · intro hl
    exact ⟨_, rfl, by rw [if_pos hl, respond_rsp]⟩

/-- The legal configurations by their number `k` of rate bytes (R132). -/
theorem configLegal_iff_exists (rate cap : BitVec 11) :
    configLegal rate cap = true ↔ ∃ k, 1 ≤ k ∧ k ≤ 200 ∧ rate.toNat = 8 * k ∧ cap.toNat = 1600 - 8 * k := by
  rw [configLegal_iff]
  constructor
  · rintro ⟨hsum, hmod, hne⟩
    exact ⟨rate.toNat / 8, by omega⟩
  · rintro ⟨k, hpos, hmax, hrate, hcap⟩
    omega

/-- Settles O18: INIT answers OK exactly for the legal configurations, and the shipped one is legal. -/
theorem initSucceedsForTwoHundredPairs : Obligations.InitSucceedsForTwoHundredPairs := by
  refine ⟨fun s rate cap sfx hflt => ?_, fun s hflt => ?_⟩
  · rw [exec_init_answers_ok_iff rate cap sfx hflt, configLegal_iff_exists]
  · have hshipped : configLegal Config.shippedRate Config.shippedCapacity = true := by decide
    refine ⟨_, exec_init _ _ _ hflt, ?_⟩
    rw [if_pos hshipped]
    exact ⟨rfl, rfl, rfl, rfl⟩

/-! ### The commands of a session that pass their prologue -/

section
variable {s t : State} {b k : Byte}

/-- A command of every build passes its prologue in a session on a core that is not FAULTED (R215). -/
theorem check_of_session {i : Instr} (hi : i.isTestPort = false) (hflt : s.flt = false) (hcfg : s.cfg = true) :
    check (some i) true s = none :=
  check_passes hflt (wellFormed_of_not_isTestPort _ hi) fun _ => hcfg

theorem exec_absorb_in_squeeze (e : Bool) (hflt : s.flt = false) (hcfg : s.cfg = true) (hp : s.phase = .squeeze) :
    exec (.absorb e b) s = .next (fatal .order s) := by
  simp only [exec, execAbsorb, check_of_session (i := .absorb e b) rfl hflt hcfg, hp, if_true]

theorem exec_absorb_empty (hflt : s.flt = false) (hcfg : s.cfg = true) (hp : s.phase = .absorb) :
    exec (.absorb true b) s = .next (respond .ok 0 s) := by
  simp [exec, execAbsorb, check_of_session (i := .absorb true b) rfl hflt hcfg, hp]

theorem exec_absorb_byte (hflt : s.flt = false) (hcfg : s.cfg = true) (hp : s.phase = .absorb)
    (h : absorbByte b s = .ok t) : exec (.absorb false b) s = .next (respond .ok 0 t) := by
  simp [exec, execAbsorb, check_of_session (i := .absorb false b) rfl hflt hcfg, hp, h]

theorem exec_squeeze_empty (hflt : s.flt = false) (hcfg : s.cfg = true) (h : closeAbsorbPhase s = .ok t) :
    exec (.squeeze true) s = .next (respond .ok 0 t) := by
  simp only [exec, execSqueeze, check_of_session (i := .squeeze true) rfl hflt hcfg, h, if_true]

theorem exec_squeeze_byte (hflt : s.flt = false) (hcfg : s.cfg = true) (h : squeezeByte s = .ok (k, t)) :
    exec (.squeeze false) s = .next (respond .ok (byteData k) t) := by
  simp [exec, execSqueeze, check_of_session (i := .squeeze false) rfl hflt hcfg, h]

theorem exec_xor (hflt : s.flt = false) (hcfg : s.cfg = true) (h : squeezeByte s = .ok (k, t)) :
    exec (.xor b) s = .next (respond .ok (byteData (b ^^^ k)) t) := by
  simp only [exec, execXor, check_of_session (i := .xor b) rfl hflt hcfg, h]

theorem exec_text_foreign {c : CharCode} (d : Direction) (hflt : s.flt = false) (hcfg : s.cfg = true)
    (hl : lookup c s = none) :
    exec (.text d c) s = .next (respond .ok (passthroughData c) { s with warn := true }) := by
  simp only [exec, execText, check_of_session (i := .text d c) rfl hflt hcfg, hl]

/-- TEXT of a character of the alphabet, when the rejection loop accepts a key (R164, R167). -/
theorem exec_text_key {c : CharCode} {j : Nat} (d : Direction) (hflt : s.flt = false) (hcfg : s.cfg = true)
    (hl : lookup c s = some j) (h : DrawsKey s.alen.toNat s k t) :
    exec (.text d c) s =
      .next (respond .ok (symbolData (symbolAt s (shiftIndex d s.alen.toNat j k.toNat))) t) := by
  simp only [exec, execText, check_of_session (i := .text d c) rfl hflt hcfg, hl, drawKey_drawBound_iff.2 h]

/-- Settles O20: ABSORB.E passes its prologue and the phase check, and answers. -/
theorem emptyAbsorbChangesNothing : Obligations.EmptyAbsorbChangesNothing :=
  fun _ _ hflt hcfg hp => exec_absorb_empty hflt hcfg hp

/-! ### The counters, compared in 8 bits, do not wrap in a session (R134, R136, R141) -/

theorem counter_add_one_eq_iff {a r : Byte} (h : a.toNat < r.toNat) : a + 1 = r ↔ a.toNat + 1 = r.toNat := by
  bv_omega

theorem counter_eq_sub_one_iff {a r : Byte} (h : a.toNat < r.toNat) : a = r - 1 ↔ a.toNat + 1 = r.toNat := by
  bv_omega

theorem counter_sub_one_toNat {r : Byte} (h : 1 ≤ r.toNat) : (r - 1).toNat = r.toNat - 1 := by
  bv_omega

theorem advanceAbsorbed_eq (h : s.absorbed.toNat < s.rateBytes.toNat) :
    advanceAbsorbed s = if s.absorbed.toNat + 1 = s.rateBytes.toNat then
      { s with lane := keccakF s.lane, absorbed := 0 } else { s with absorbed := s.absorbed + 1 } := by
  simp only [advanceAbsorbed, counter_add_one_eq_iff h]
  rfl

theorem advanceSqueezed_eq (h : s.squeezed.toNat < s.rateBytes.toNat) :
    advanceSqueezed s = if s.squeezed.toNat + 1 = s.rateBytes.toNat then
      { s with lane := keccakF s.lane, squeezed := 0 } else { s with squeezed := s.squeezed + 1 } := by
  simp only [advanceSqueezed, counter_add_one_eq_iff h]
  rfl

/-- The permutation in the middle of Pad runs when the suffix's top bit is the last bit of the block (R137). -/
theorem padMiddle_eq (h : s.absorbed.toNat < s.rateBytes.toNat) :
    padMiddle s = { s with
      lane := if s.suffix.getLsbD 7 = true ∧ s.absorbed.toNat + 1 = s.rateBytes.toNat then keccakF s.lane
        else s.lane } := by
  simp only [padMiddle, topBit, Bool.and_eq_true, beq_iff_eq, counter_eq_sub_one_iff h]
  split <;> rfl

/-! ### The phase decides whether a squeeze pads (R141, R142) -/

/-- In a session, phase SQUEEZE is a `squeezed` below the rate (R27, R28). -/
theorem squeezed_lt_of_phase (hw : s.SessionWf) (hp : s.phase = .squeeze) :
    s.squeezed.toNat < s.rateBytes.toNat := by
  obtain ⟨-, -, -, hle⟩ := hw
  obtain ⟨-, hne⟩ := (phase_eq_squeeze_iff s).1 hp
  exact lt_of_le_of_ne hle fun heq => hne (BitVec.eq_of_toNat_eq heq)

/-- In a session, SqueezeByte begins with what SQUEEZE.E does (R141, R142). -/
theorem padIfVirgin_eq_closeAbsorbPhase (hcfg : s.cfg = true) : padIfVirgin s = closeAbsorbPhase s := by
  by_cases h : s.squeezed = s.rateBytes <;> simp [padIfVirgin, closeAbsorbPhase, State.phase, hcfg, h]

theorem closeAbsorbPhase_in_squeeze (hp : s.phase = .squeeze) : closeAbsorbPhase s = .ok s := by
  simp [closeAbsorbPhase, hp]

theorem padIfVirgin_in_squeeze (hp : s.phase = .squeeze) : padIfVirgin s = .ok s := by
  obtain ⟨hcfg, -⟩ := (phase_eq_squeeze_iff s).1 hp
  rw [padIfVirgin_eq_closeAbsorbPhase hcfg, closeAbsorbPhase_in_squeeze hp]

/-- In phase SQUEEZE, SqueezeByte reads and advances and does not pad (R141). -/
theorem squeezeByte_in_squeeze (hp : s.phase = .squeeze) :
    squeezeByte s = (stateByte s.squeezed.toNat s).map fun k => (k, advanceSqueezed s) := by
  simp only [squeezeByte, padIfVirgin_in_squeeze hp]
  cases stateByte s.squeezed.toNat s <;> rfl

/-- A squeeze after SQUEEZE.E is the squeeze without it: SQUEEZE.E only closes phase ABSORB (R142). -/
theorem squeezeByte_of_closeAbsorbPhase (hs : s.InSession) (h : closeAbsorbPhase s = .ok t) :
    t.InSession ∧ t.phase = .squeeze ∧ squeezeByte s = squeezeByte t := by
  obtain ⟨hflt, hcfg, hw⟩ := hs
  obtain ⟨L, q, rfl, hq⟩ := closeAbsorbPhase_in_session hw h
  have hp : State.phase { s with lane := L, squeezed := q } = .squeeze := phase_of_squeezed_lt hcfg hq
  refine ⟨⟨hflt, hcfg, sessionWf_of_squeezed L hw hq⟩, hp, ?_⟩
  simp only [squeezeByte, padIfVirgin_eq_closeAbsorbPhase hcfg, h, padIfVirgin_in_squeeze hp]

/-! ### One command -/

/-- AbsorbByte in a session (R134), with its lanes before the permutation given by their bytes. -/
theorem absorbByte_eq (b : Byte) (hw : s.SessionWf) :
    ∃ L : Lanes,
      (∀ a, stateByte a { s with lane := L } =
        if a = s.absorbed.toNat then (stateByte a s).map (· ^^^ b) else stateByte a s) ∧
      absorbByte b s = .ok
        (if s.absorbed.toNat + 1 = s.rateBytes.toNat then { s with lane := keccakF L, absorbed := 0 }
        else { s with lane := L, absorbed := s.absorbed + 1 }) := by
  obtain ⟨-, hmax, hlt, -⟩ := hw
  obtain ⟨L, hL⟩ := stateXorByte_total b s (i := s.absorbed.toNat) (by omega)
  refine ⟨L, stateByte_of_stateXorByte hL, ?_⟩
  simp only [absorbByte, hL]
  rw [advanceAbsorbed_eq (s := { s with lane := L }) hlt]

/-- Settles O19: the command answers with AbsorbByte's state. -/
theorem absorbXorsOneByteAndPermutesAtBlockEnd : Obligations.AbsorbXorsOneByteAndPermutesAtBlockEnd := by
  rintro s b ⟨hflt, hcfg, hw⟩ hp
  obtain ⟨L, hview, habsorb⟩ := absorbByte_eq b hw
  refine ⟨L, hview, ?_⟩
  rw [exec_absorb_byte hflt hcfg hp habsorb, apply_ite (respond .ok 0)]
  rfl

/-- Settles O23: Pad's two byte XORs in the view, with the permutation of `padMiddle_eq` between them; in phase
SQUEEZE there is nothing to close. -/
theorem emptySqueezePadsOnceOrDoesNothing : Obligations.EmptySqueezePadsOnceOrDoesNothing := by
  refine ⟨?_, fun s hflt hcfg hp => exec_squeeze_empty hflt hcfg (closeAbsorbPhase_in_squeeze hp)⟩
  rintro s ⟨hflt, hcfg, hpos, hmax, hlt, -⟩ hp
  obtain ⟨P, hP⟩ := stateXorByte_total s.suffix s (i := s.absorbed.toNat) (by omega)
  have hmiddle := padMiddle_eq (s := { s with lane := P }) hlt
  generalize hM : (if s.suffix.getLsbD 7 = true ∧ s.absorbed.toNat + 1 = s.rateBytes.toNat then keccakF P else P) = M
    at hmiddle
  obtain ⟨Q, hQ⟩ := stateXorByte_total 0x80 { s with lane := M } (i := s.rateBytes.toNat - 1) (by omega)
  have hpad : closeAbsorbPhase s = .ok { s with lane := keccakF Q, squeezed := 0 } := by
    simp only [closeAbsorbPhase, hp, if_true, pad, hP, hmiddle, counter_sub_one_toNat hpos, hQ, permute]
  exact ⟨P, M, Q, stateByte_of_stateXorByte hP, hM.symm, stateByte_of_stateXorByte hQ,
    exec_squeeze_empty hflt hcfg hpad⟩

/-- Settles O24: in phase SQUEEZE, SqueezeByte reads a byte of the view and advances. -/
theorem squeezeReadsTheNextByte : Obligations.SqueezeReadsTheNextByte := by
  rintro s ⟨hflt, hcfg, hw⟩ hp
  have hlt := squeezed_lt_of_phase hw hp
  obtain ⟨-, hmax, -, -⟩ := hw
  obtain ⟨k, hk⟩ := (stateByte_isOk_iff s.squeezed.toNat s).2 (by omega)
  have hsqueeze : squeezeByte s = .ok (k, advanceSqueezed s) := by
    rw [squeezeByte_in_squeeze hp, hk]
    rfl
  refine ⟨k, hk, ?_⟩
  rw [exec_squeeze_byte hflt hcfg hsqueeze, advanceSqueezed_eq hlt, apply_ite (respond .ok (byteData k))]
  rfl

/-! ### The ordering error (R147) -/

/-- A response with the ordering error waits. -/
def AnswersOrder (t : State) : Prop := ∃ x, t.rsp = some ⟨.order, x⟩

theorem not_answersOrder_respond {code : RspCode} {x : Word} (h : code ≠ .order) :
    ¬ AnswersOrder (respond code x s) := by
  rintro ⟨y, hy⟩
  cases hy
  exact h rfl

theorem not_answersOrder_fatal {code : RspCode} (h : code ≠ .order) : ¬ AnswersOrder (fatal code s) :=
  not_answersOrder_respond h

/-- The prologue raises no ordering error (R215). -/
theorem not_answersOrder_of_check {d : Option Instr} {n : Bool} (h : check d n s = some t) : ¬ AnswersOrder t := by
  obtain ⟨-, -, rfl⟩ | ⟨-, -, rfl⟩ | ⟨-, -, -, -, rfl⟩ := check_eq_some d n s t h
  · exact not_answersOrder_respond (by decide)
  · exact not_answersOrder_fatal (by decide)
  · exact not_answersOrder_fatal (by decide)

/-- Of the commands, only ABSORB checks the phase (R147). -/
theorem not_answersOrder_of_exec {i : Instr} (hport : s.rsp = none) (h : exec i s = .next t)
    (hi : ∀ e b, i ≠ .absorb e b) : ¬ AnswersOrder t := by
  cases i with
  | absorb e b => exact absurd rfl (hi e b)
  | init rate cap sfx =>
    obtain hc | ⟨-, ⟨-, rfl⟩ | ⟨-, rfl⟩⟩ := execInit_cases h
    · exact not_answersOrder_of_check hc
    · exact not_answersOrder_respond (by decide)
    · exact not_answersOrder_fatal (by decide)
  | squeeze e =>
    obtain hc | ⟨-, ⟨-, u, -, rfl⟩ | ⟨-, k, u, -, rfl⟩⟩ := execSqueeze_cases h
    · exact not_answersOrder_of_check hc
    · exact not_answersOrder_respond (by decide)
    · exact not_answersOrder_respond (by decide)
  | xor b =>
    obtain hc | ⟨-, k, u, -, rfl⟩ := execXor_cases h
    · exact not_answersOrder_of_check hc
    · exact not_answersOrder_respond (by decide)
  | text d c =>
    obtain hc | ⟨-, ⟨-, rfl⟩ | ⟨j, -, ⟨k, u, -, rfl⟩ | ⟨-, rfl⟩⟩⟩ := execText_cases h
    · exact not_answersOrder_of_check hc
    · exact not_answersOrder_respond (by decide)
    · exact not_answersOrder_respond (by decide)
    · rintro ⟨x, hx⟩
      cases hport.symm.trans hx
  | alphaClear =>
    obtain hc | ⟨-, rfl⟩ := execAlphaClear_cases h
    · exact not_answersOrder_of_check hc
    · exact not_answersOrder_respond (by decide)
  | alphaAppend c =>
    obtain hc | ⟨-, ⟨_, rfl⟩ | ⟨-, rfl⟩⟩ := execAlphaAppend_cases h
    · exact not_answersOrder_of_check hc
    · exact not_answersOrder_respond (by decide)
    · exact not_answersOrder_fatal (by decide)
  | status =>
    cases (execStatus_eq s).symm.trans h
    exact not_answersOrder_respond (by decide)
  | keccakF =>
    obtain hc | ⟨-, rfl⟩ := execKeccakF_cases h
    · exact not_answersOrder_of_check hc
    · exact not_answersOrder_respond (by decide)
  | laneRead idx =>
    obtain hc | ⟨-, rfl⟩ := execLaneRead_cases h
    · exact not_answersOrder_of_check hc
    · exact not_answersOrder_respond (by decide)

end

/-- Settles O21: ABSORB's phase check, then that no other command has one, then that a draw from a well-formed session
ends in phase SQUEEZE, whichever phase it began in. -/
theorem onlyAbsorbHasAPhasePrecondition : Obligations.OnlyAbsorbHasAPhasePrecondition := by
  refine ⟨fun s e b hflt hcfg hp => exec_absorb_in_squeeze e hflt hcfg hp, ?_, ?_, ?_, ?_⟩
  · intro s t i x hport h hrsp
    by_contra hi
    exact not_answersOrder_of_exec hport h (by simpa using hi) ⟨x, hrsp⟩
  · rintro s b ⟨hflt, hcfg, hw⟩
    obtain ⟨k, L, q, hsqueeze, hq⟩ := squeezeByte_total hw
    exact ⟨⟨_, _, exec_squeeze_byte hflt hcfg hsqueeze, rfl, phase_of_squeezed_lt hcfg hq⟩,
      ⟨_, _, exec_xor hflt hcfg hsqueeze, rfl, phase_of_squeezed_lt hcfg hq⟩⟩
  · rintro s u d c k ⟨hflt, hcfg, hw⟩ hl hdraws
    obtain ⟨j, hj⟩ := Option.ne_none_iff_exists'.1 hl
    obtain ⟨M, q, rfl, hq⟩ := drawKey_in_session hw (drawKey_drawBound_iff.2 hdraws)
    exact ⟨_, _, exec_text_key d hflt hcfg hj hdraws, rfl, phase_of_squeezed_lt hcfg hq⟩
  · rintro s d c ⟨hflt, hcfg, -⟩ hl
    exact ⟨_, _, exec_text_foreign d hflt hcfg hl, rfl, rfl⟩

/-! ### The first keystream command -/

section
variable {s t u : State} {code : RspCode} {x : Word}

/-- The response on the port plays no part in a squeeze (R141). -/
theorem squeezeByte_respond (hp : s.phase = .squeeze) :
    squeezeByte (respond code x s) = (squeezeByte s).map fun p => (p.1, respond code x p.2) := by
  have hp' : (respond code x s).phase = .squeeze := hp
  have hadvance : advanceSqueezed (respond code x s) = respond code x (advanceSqueezed s) := by
    rw [advanceSqueezed, advanceSqueezed, apply_ite (respond code x)]
    rfl
  rw [squeezeByte_in_squeeze hp, squeezeByte_in_squeeze hp', hadvance, stateByte_congr (respond_lane ..),
    respond_squeezed]
  cases stateByte s.squeezed.toNat s <;> rfl

/-- The rejection loop does not read the port either (R164). -/
theorem drawsKey_respond {L : Nat} {k : Byte} (hs : s.InSession) (hp : s.phase = .squeeze)
    (h : DrawsKey L s k u) : DrawsKey L (respond code x s) k (respond code x u) := by
  induction h with
  | accept h hk => exact .accept (by rw [squeezeByte_respond hp, h]; rfl) hk
  | discard h hk _ ih =>
    obtain ⟨hflt, hcfg, hw⟩ := hs
    obtain ⟨M, q, rfl, hq⟩ := squeezeByte_in_session hw h
    exact .discard (by rw [squeezeByte_respond hp, h]; rfl) hk
      (ih ⟨hflt, hcfg, sessionWf_of_squeezed M hw hq⟩ (phase_of_squeezed_lt hcfg hq))

/-- The rejection loop depends on its first draw alone (R164). -/
theorem drawsKey_congr {L : Nat} {k : Byte} (h : squeezeByte s = squeezeByte t) (hdraws : DrawsKey L s k u) :
    DrawsKey L t k u := by
  cases hdraws with
  | accept hsq hk => exact .accept (h ▸ hsq) hk
  | discard hsq hk hrest => exact .discard (h ▸ hsq) hk hrest

/-- A TEXT of a character of the alphabet that does not stay in flight has drawn a key (R164, R167). -/
theorem drawsKey_of_exec_text {d : Direction} {c : CharCode} (hs : s.InSession) (hl : lookup c s ≠ none)
    (h : exec (.text d c) s = .next u) (hbusy : u.busy = false) :
    ∃ j k v, lookup c s = some j ∧ DrawsKey s.alen.toNat s k v ∧
      u = respond .ok (symbolData (symbolAt s (shiftIndex d s.alen.toNat j k.toNat))) v := by
  obtain ⟨hflt, hcfg, -⟩ := hs
  obtain hc | ⟨-, ⟨hnone, -⟩ | ⟨j, hj, ⟨k, v, hk, hu⟩ | ⟨-, rfl⟩⟩⟩ := execText_cases h
  · cases (check_of_session (i := .text d c) rfl hflt hcfg).symm.trans hc
  · exact absurd hnone hl
  · exact ⟨j, k, v, hj, drawKey_key hk, hu⟩
  · cases hbusy

end

/-- Settles O25: SQUEEZE.E closes phase ABSORB, so the next draw is the one that the first state's own draw makes; its
response on the port is then written over. -/
theorem firstKeystreamCommandPadsFirst : Obligations.FirstKeystreamCommandPadsFirst := by
  intro s hs _
  have hsession := hs
  obtain ⟨hflt, hcfg, hw⟩ := hs
  obtain ⟨t, hclose⟩ := closeAbsorbPhase_total hw
  obtain ⟨hin, hp, hsame⟩ := squeezeByte_of_closeAbsorbPhase hsession hclose
  obtain ⟨k, L, q, hk, -⟩ := squeezeByte_total hw
  have hk' : squeezeByte (respond .ok 0 t) = .ok (k, respond .ok 0 { s with lane := L, squeezed := q }) := by
    rw [squeezeByte_respond hp, ← hsame, hk]
    rfl
  have hin' : (respond .ok 0 t).InSession := hin
  obtain ⟨hflt', hcfg', -⟩ := hin'
  refine ⟨respond .ok 0 t, exec_squeeze_empty hflt hcfg hclose, hin, hp, ?_, fun b => ?_, fun d c u hl _ h hu => ?_⟩
  · rw [exec_squeeze_byte hflt hcfg hk, exec_squeeze_byte hflt' hcfg' hk', respond_respond]
  · rw [exec_xor hflt hcfg hk, exec_xor hflt' hcfg' hk', respond_respond]
  · obtain ⟨j, k, v, hj, hdraws, rfl⟩ := drawsKey_of_exec_text hsession hl h hu
    have hdraws' := drawsKey_respond (code := .ok) (x := 0) hin hp (drawsKey_congr hsame hdraws)
    rw [closeAbsorbPhase_frame hclose] at hdraws' hflt' hcfg' ⊢
    have htext := exec_text_key d hflt' hcfg' hj hdraws'
    exact htext

/-! ### A whole block -/

/-- A sequence that answered OK throughout, and one more command that does. -/
theorem runCommands_snoc {is : List Instr} {i : Instr} {s t u : State} {rs : List Response} {x : Word}
    (h : runCommands is s = some (rs, t)) (hok : ∀ r ∈ rs, r.code = .ok) (hi : exec i (deliver t) = .next u)
    (hr : u.rsp = some ⟨.ok, x⟩) : runCommands (is ++ [i]) s = some (rs ++ [⟨.ok, x⟩], deliver u) := by
  rw [runCommands_append h hok, runCommands_cons_ok [] hi hr]
  rfl

/-- The lanes `L` are those of `s` with the bytes `bs` XORed into the view from address 0 (R13). -/
def XorsBlock (s : State) (bs : List Byte) (L : Lanes) : Prop :=
  ∀ a, stateByte a { s with lane := L } = (stateByte a s).map (· ^^^ bs.getD a 0)

theorem xorsBlock_nil (s : State) : XorsBlock s [] s.lane := by
  intro a
  cases stateByte a s <;> simp [Except.map]

/-- One more byte of the block, at the address after the others. -/
theorem xorsBlock_append {s : State} {bs : List Byte} {b : Byte} {L M : Lanes} (h : XorsBlock s bs L)
    (hM : ∀ a, stateByte a { s with lane := M } =
      if a = bs.length then (stateByte a { s with lane := L }).map (· ^^^ b) else stateByte a { s with lane := L }) :
    XorsBlock s (bs ++ [b]) M := by
  intro a
  rw [hM a, h a]
  obtain hlt | rfl | hgt := lt_trichotomy a bs.length
  · rw [if_neg hlt.ne, List.getD_append _ _ _ _ hlt]
  · rw [if_pos rfl]
    cases stateByte bs.length s <;> simp [Except.map]
  · rw [if_neg hgt.ne', List.getD_eq_default _ _ hgt.le, List.getD_eq_default _ _ (by simpa using hgt)]

/-- Absorbing up to a block from its start: the lanes before the permutation hold the bytes, and the permutation runs
when the block is full (R134, R144). -/
theorem runCommands_absorb_block {s : State} {bs : List Byte} (hs : s.InSession) (hp : s.phase = .absorb)
    (h0 : s.absorbed = 0) (hlen : bs.length ≤ s.rateBytes.toNat) :
    ∃ L : Lanes, XorsBlock s bs L ∧
      runCommands (bs.map (.absorb false)) s = some (List.replicate bs.length okNone,
        if bs.length = s.rateBytes.toNat then { s with lane := keccakF L, absorbed := 0, rsp := none }
        else { s with lane := L, absorbed := BitVec.ofNat 8 bs.length, rsp := none }) := by
  obtain ⟨hflt, hcfg, hpos, hmax, hltrate, hsq⟩ := hs
  induction bs using List.reverseRecOn with
  | nil =>
    refine ⟨s.lane, xorsBlock_nil s, ?_⟩
    have hcount : BitVec.ofNat 8 0 = s.absorbed := h0.symm
    rw [List.length_nil, if_neg (Nat.ne_of_lt hpos), hcount]
    rfl
  | append_singleton bs b ih =>
    rw [List.length_append, List.length_singleton] at hlen ⊢
    obtain ⟨L, hL, hrun⟩ := ih (by omega)
    rw [if_neg (by omega)] at hrun
    have hcount : (BitVec.ofNat 8 bs.length).toNat = bs.length := toNat_ofNat_of_lt (by omega)
    obtain ⟨M, hM, hexec⟩ := absorbXorsOneByteAndPermutesAtBlockEnd
      { s with lane := L, absorbed := BitVec.ofNat 8 bs.length, rsp := none } b
      ⟨hflt, hcfg, hpos, hmax, by simp only [hcount]; omega, hsq⟩ hp
    simp only [hcount] at hM hexec
    refine ⟨M, xorsBlock_append hL hM, ?_⟩
    rw [List.map_append, List.map_singleton,
      runCommands_snoc (x := 0) hrun (by simp [okNone]) hexec (by split <;> rfl), List.replicate_succ',
      BitVec.ofNat_add, apply_ite deliver]
    rfl

/-- Settles O22: the full block of `runCommands_absorb_block`, whose last command permutes. -/
theorem absorbingABlockPermutesOnce : Obligations.AbsorbingABlockPermutesOnce := by
  intro s bs hs hp h0 hlen
  obtain ⟨L, hL, hrun⟩ := runCommands_absorb_block hs hp h0 hlen.le
  refine ⟨L, fun a => ?_, ?_⟩
  · rw [hL a]
    split
    · next b hb => rw [List.getD_eq_getElem?_getD, hb, Option.getD_some]
    · next hb =>
      rw [List.getD_eq_getElem?_getD, hb, Option.getD_none]
      cases stateByte a s <;> simp [Except.map]
  · obtain ⟨-, -, hpos, -⟩ := hs
    have hne : bs.isEmpty = false := by
      rw [List.isEmpty_eq_false_iff, ← List.length_pos_iff]
      omega
    rw [apiAbsorb, if_neg (by simp [hne]), hrun, if_pos hlen]

/-- Squeezing up to a block from its start: the bytes of the view in order, and the permutation runs when the block
is exhausted (R141, R144). -/
theorem runCommands_squeeze_block {s : State} {n : Nat} (hs : s.InSession) (h0 : s.squeezed = 0)
    (hn : n ≤ s.rateBytes.toNat) :
    ∃ bs : List Byte, bs.length = n ∧ (∀ a b, bs[a]? = some b → stateByte a s = .ok b) ∧
      runCommands (List.replicate n (.squeeze false)) s = some (bs.map okByte,
        if n = s.rateBytes.toNat then { s with lane := keccakF s.lane, squeezed := 0, rsp := none }
        else { s with squeezed := BitVec.ofNat 8 n, rsp := none }) := by
  obtain ⟨hflt, hcfg, hpos, hmax, hab, hsq⟩ := hs
  induction n with
  | zero =>
    refine ⟨[], rfl, by simp, ?_⟩
    have hcount : BitVec.ofNat 8 0 = s.squeezed := h0.symm
    rw [if_neg (Nat.ne_of_lt hpos), hcount]
    rfl
  | succ n ih =>
    obtain ⟨bs, hlen, hview, hrun⟩ := ih (by omega)
    rw [if_neg (by omega)] at hrun
    have hcount : (BitVec.ofNat 8 n).toNat = n := toNat_ofNat_of_lt (by omega)
    have hlt : (BitVec.ofNat 8 n).toNat < s.rateBytes.toNat := by omega
    obtain ⟨k, hk, hexec⟩ := squeezeReadsTheNextByte
      { s with squeezed := BitVec.ofNat 8 n, rsp := none }
      ⟨hflt, hcfg, hpos, hmax, hab, hlt.le⟩ (phase_of_squeezed_lt hcfg hlt)
    simp only [hcount] at hk hexec
    refine ⟨bs ++ [k], by simp [hlen], fun a b hb => ?_, ?_⟩
    · rw [List.getElem?_append] at hb
      split at hb
      · exact hview a b hb
      · next hge =>
        rw [List.getElem?_singleton] at hb
        split at hb
        · next hzero =>
          cases hb
          rw [show a = n by omega]
          exact hk
        · cases hb
    · rw [List.replicate_succ',
        runCommands_snoc (x := byteData k) hrun (by simp [okByte]) hexec (by split <;> rfl), List.map_append,
        BitVec.ofNat_add, apply_ite deliver]
      rfl

/-- A byte put into a response is read back from it (R194). -/
theorem byte_okByte (b : Byte) : (okByte b).byte = b := by
  simp [okByte, Response.byte]

/-- Settles O26: the exhausted block of `runCommands_squeeze_block`, whose responses hold its bytes; squeeze(0) is
SQUEEZE.E, which closes phase ABSORB. -/
theorem squeezingABlockReturnsItsBytes : Obligations.SqueezingABlockReturnsItsBytes := by
  refine ⟨fun s hs _ h0 => ?_, ?_⟩
  · obtain ⟨bs, hlen, hview, hrun⟩ := runCommands_squeeze_block hs h0 le_rfl
    obtain ⟨-, -, hpos, -⟩ := hs
    have hne : s.rateBytes.toNat ≠ 0 := by omega
    rw [if_pos rfl, ← h0] at hrun
    have happly : runCommands (apiSqueeze s.rateBytes.toNat) s =
        some (bs.map okByte, { s with lane := keccakF s.lane, rsp := none }) := by
      rw [apiSqueeze, if_neg hne, hrun]
    refine ⟨bs, hlen, hview, happly, callApi_returned_iff.2 ⟨_, happly, by simp [okByte], ?_⟩⟩
    simp [squeezeOutput, hne, byte_okByte, Function.comp_def]
  · rintro s ⟨hflt, hcfg, hw⟩
    obtain ⟨t, hclose⟩ := closeAbsorbPhase_total (s := deliver s) hw
    obtain ⟨L, q, rfl, hq⟩ := closeAbsorbPhase_in_session (s := deliver s) hw hclose
    have hrun := runCommands_cons_ok [] (exec_squeeze_empty (s := deliver s) hflt hcfg hclose) rfl
    exact ⟨_, callApi_returned_iff.2 ⟨_, hrun, by simp, rfl⟩, phase_of_squeezed_lt hcfg hq⟩

end Sys2Proof.Machine
end

section
/-! SUPPORT. The Keystream Cipher Layer (42_keystream.md): Lookup and the modular map (R163, R166), then one TEXT, one
XOR and one command of the alphabet (R161 to R171). -/

namespace Sys2Proof.Machine

/-! ### Lookup (R163) -/

/-- The last number below `n` with a property, by a scan from 0 up in which a later find overwrites an earlier one. -/
def lastBelow (p : Nat → Prop) [DecidablePred p] (n : Nat) : Option Nat :=
  (List.range n).foldl (fun found j => if p j then some j else found) none

section
variable {p : Nat → Prop} [DecidablePred p] {n : Nat}

theorem lastBelow_succ : lastBelow p (n + 1) = if p n then some n else lastBelow p n := by
  simp only [lastBelow, List.range_succ, List.foldl_append, List.foldl_cons, List.foldl_nil]

theorem lastBelow_eq_some_iff {i : Nat} :
    lastBelow p n = some i ↔ i < n ∧ p i ∧ ∀ j, i < j → j < n → ¬ p j := by
  induction n with
  | zero => simp [lastBelow]
  | succ n ih =>
    rw [lastBelow_succ]
    by_cases hn : p n
    · rw [if_pos hn, Option.some.injEq]
      constructor
      · rintro rfl
        exact ⟨n.lt_succ_self, hn, fun j hnj hj => by omega⟩
      · rintro ⟨hi, -, hlast⟩
        by_contra hne
        exact hlast n (by omega) n.lt_succ_self hn
    · rw [if_neg hn, ih]
      constructor
      · rintro ⟨hi, hp, hlast⟩
        refine ⟨by omega, hp, fun j hij hj => ?_⟩
        obtain hj | rfl := Nat.lt_succ_iff_lt_or_eq.1 hj
        · exact hlast j hij hj
        · exact hn
      · rintro ⟨hi, hp, hlast⟩
        have hne : i ≠ n := fun h => hn (h ▸ hp)
        exact ⟨by omega, hp, fun j hij hj => hlast j hij (by omega)⟩

theorem lastBelow_eq_none_iff : lastBelow p n = none ↔ ∀ j, j < n → ¬ p j := by
  induction n with
  | zero => simp [lastBelow]
  | succ n ih =>
    rw [lastBelow_succ, Nat.forall_lt_succ_right, ← ih]
    by_cases hn : p n <;> simp [hn]

end

/-- Lookup is the scan for the character below alen (R163). -/
theorem lookup_eq_lastBelow (c : CharCode) (s : State) :
    lookup c s = lastBelow (fun j => s.alpha[j]? = some c) s.alen.toNat := rfl

/-- Lookup finds nothing exactly when the character is not in the alphabet (R163). -/
theorem lookup_eq_none_iff {c : CharCode} {s : State} :
    lookup c s = none ↔ ∀ j, j < s.alen.toNat → s.alpha[j]? ≠ some c := by
  rw [lookup_eq_lastBelow, lastBelow_eq_none_iff]

/-- Settles O29: the scan's last find; no index is below 0. -/
theorem lookupFindsTheLastMatch : Obligations.LookupFindsTheLastMatch := by
  refine ⟨fun s c i => ?_, fun s c h0 => ?_⟩
  · rw [lookup_eq_lastBelow, lastBelow_eq_some_iff]
  · rw [lookup_eq_none_iff, h0]
    exact fun j hj => absurd hj j.not_lt_zero

/-- In an alphabet without duplicates Lookup gives the one index of a symbol (R163, R169). -/
theorem lookup_eq_some_of_distinct {c : CharCode} {s : State} {i : Nat} (hd : s.DistinctSymbols)
    (hi : i < s.alen.toNat) (hc : s.alpha[i]? = some c) : lookup c s = some i :=
  (lookupFindsTheLastMatch.1 s c i).2
    ⟨hi, hc, fun j hij hj hcj => hij.ne (hd i j hi hj (hc.trans hcj.symm))⟩

/-- TEXT's answer below alen is an entry of the table, which holds 255 (R34, R167). -/
theorem getElem?_symbolAt {s : State} {j : Nat} (hj : j < s.alen.toNat) : s.alpha[j]? = some (symbolAt s j) := by
  have hlt : j < 255 := by omega
  rw [Vector.getElem?_eq_getElem hlt, symbolAt]
  simp only [Fin.getElem_fin, Fin.val_ofNat, Nat.mod_eq_of_lt hlt]

/-! ### The modular map (R166) -/

section
variable {L i k : Nat}

/-- The decrypting map is the remainder of the difference that is not negative (R166). -/
theorem shiftIndex_decrypt_eq_emod (hi : i < L) (hk : k < L) :
    (shiftIndex .decrypt L i k : Int) = ((i : Int) - k) % L := by
  simp only [shiftIndex]
  split
  · next hle => rw [Nat.cast_sub hle, Int.emod_eq_of_lt (by omega) (by omega)]
  · next hlt =>
    rw [← Int.add_emod_right, Int.emod_eq_of_lt (by omega) (by omega)]
    omega

/-- The decrypting map is the index that the key shifts to `i` (R166). -/
theorem shiftIndex_decrypt_add_key (hi : i < L) (hk : k < L) : (shiftIndex .decrypt L i k + k) % L = i := by
  simp only [shiftIndex]
  split
  · rw [Nat.sub_add_cancel (by omega), Nat.mod_eq_of_lt hi]
  · rw [Nat.sub_add_cancel (by omega), Nat.add_mod_right, Nat.mod_eq_of_lt hi]

/-- Decryption undoes encryption by the same key (R166, R169). -/
theorem shiftIndex_decrypt_encrypt (hi : i < L) (hk : k < L) :
    shiftIndex .decrypt L (shiftIndex .encrypt L i k) k = i := by
  have hencrypt : shiftIndex .encrypt L i k = (i + k) % L := rfl
  rw [hencrypt]
  simp only [shiftIndex]
  obtain hsum | hsum := Nat.lt_or_ge (i + k) L
  · rw [Nat.mod_eq_of_lt hsum, if_pos (by omega)]
    omega
  · rw [Nat.mod_eq_sub_mod hsum, Nat.mod_eq_of_lt (by omega), if_neg (by omega)]
    omega

end

/-- Settles O30: the two maps' results and their bounds. -/
theorem modularMapStaysBelowLength : Obligations.ModularMapStaysBelowLength := by
  intro L i k hi hk
  exact ⟨rfl, shiftIndex_lt hi hk, shiftIndex_decrypt_eq_emod hi hk, shiftIndex_lt hi hk, fun _ => by omega⟩

/-! ### TEXT's response words (R85) -/

theorem symbolData_eq (c : CharCode) : symbolData c = c.setWidth 64 := by
  apply BitVec.eq_of_toNat_eq
  rw [symbolData, BitVec.toNat_setWidth, toNat_append_eq_add, BitVec.toNat_ofNat, BitVec.toNat_setWidth]
  omega

theorem passthroughData_eq (c : CharCode) : passthroughData c = BitVec.ofNat 64 (2 ^ 32 + c.toNat) := by
  apply BitVec.eq_of_toNat_eq
  rw [passthroughData, BitVec.toNat_setWidth, toNat_append_eq_add, BitVec.toNat_ofNat, BitVec.toNat_ofNat]
  omega

/-- The character is read back from both words (R198). -/
theorem setWidth_symbolData (c : CharCode) : (symbolData c).setWidth 32 = c := by
  simp [symbolData_eq]

theorem setWidth_passthroughData (c : CharCode) : (passthroughData c).setWidth 32 = c := by
  apply BitVec.eq_of_toNat_eq
  rw [passthroughData_eq, BitVec.toNat_setWidth, BitVec.toNat_ofNat]
  omega

/-! ### TEXT -/

/-- Settles O31: Lookup finds no such character, and the passthrough word is the one stated. -/
theorem foreignCharacterPassesThrough : Obligations.ForeignCharacterPassesThrough := by
  intro s d c hflt hcfg hforeign
  rw [exec_text_foreign d hflt hcfg (lookup_eq_none_iff.2 hforeign), passthroughData_eq]
  rfl

/-- Settles O32: the model's loop finds the key of the unbounded one, and the modular map keeps the index in the
table. -/
theorem textFollowsTheUnboundedRejectionLoop : Obligations.TextFollowsTheUnboundedRejectionLoop := by
  intro s u d c i k hflt hcfg hl hdraws
  obtain ⟨hk, hframe⟩ := drawsKey_frame hdraws
  have hi := lookup_lt hl
  have hj : shiftIndex d s.alen.toNat i k.toNat < s.alen.toNat := shiftIndex_lt hi hk
  refine ⟨_, _, hj, getElem?_symbolAt hj, ?_, hframe, ?_⟩
  · cases d with
    | encrypt => rfl
    | decrypt => exact shiftIndex_decrypt_add_key hi hk
  · rw [exec_text_key d hflt hcfg hl hdraws, symbolData_eq]
    rfl

/-- Settles O34, along what TEXT can do in a session: pass the character through, answer with a symbol, or draw for
ever. -/
theorem textAnswersOrStaysInFlight : Obligations.TextAnswersOrStaysInFlight := by
  rintro s d c ⟨hflt, hcfg, hw⟩ hport
  have hc := check_of_session (i := .text d c) rfl hflt hcfg
  obtain ⟨t, ht⟩ := execText_total hw hc
  refine ⟨t, ht, ?_⟩
  obtain hstop | ⟨-, ⟨-, rfl⟩ | ⟨i, -, ⟨k, u, -, rfl⟩ | ⟨hnone, rfl⟩⟩⟩ := execText_cases ht
  · cases hc.symm.trans hstop
  · exact .inl ⟨_, rfl⟩
  · exact .inl ⟨_, rfl⟩
  · exact .inr ⟨hport, rfl, not_drawsKey_of_drawKey_none hnone⟩

/-! ### XOR -/

/-- Settles O27: both commands answer with the one byte that SqueezeByte gives, and leave its state. -/
theorem xorIsSqueezeWithTheInputXored : Obligations.XorIsSqueezeWithTheInputXored := by
  rintro s ⟨hflt, hcfg, hw⟩
  obtain ⟨k, L, q, hsqueeze, -⟩ := squeezeByte_total hw
  exact ⟨k, _, exec_squeeze_byte hflt hcfg hsqueeze, fun b => exec_xor hflt hcfg hsqueeze⟩

/-! ### The alphabet -/

/-- Settles O36: ALPHA_CLEAR passes its prologue, with or without a session. -/
theorem alphaClearEmptiesTheAlphabet : Obligations.AlphaClearEmptiesTheAlphabet :=
  fun _ hflt => execAlphaClear_of_check_eq_none
    (check_passes hflt (wellFormed_of_not_isTestPort _ rfl) (by simp))

/-- Settles O37: ALPHA_APPEND passes its prologue, and there is room exactly when alen is not 255. -/
theorem alphaAppendAddsOneSymbolOrFaults : Obligations.AlphaAppendAddsOneSymbolOrFaults := by
  intro s c hflt
  have hc : check (some (.alphaAppend c)) false s = none :=
    check_passes hflt (wellFormed_of_not_isTestPort _ rfl) (by simp)
  refine ⟨fun hne => ?_, fun hfull => execAlphaAppend_of_full hc (by rw [hfull]; decide)⟩
  have hroom : s.alen.toNat < 255 := by bv_omega
  refine ⟨s.alpha.set s.alen.toNat c hroom, fun j => ?_, execAlphaAppend_of_room hc hroom⟩
  rw [Vector.getElem?_set]
  simp only [eq_comm]

end Sys2Proof.Machine
end

section
/-! SUPPORT. The keystream in sequences of commands (42_keystream.md): the bytes that SQUEEZE returns are the draws
(R164, R165), and the binary mode is self-inverse (R162, R196). -/

namespace Sys2Proof.Machine

/-! ### The port plays no part in a squeeze (R141) -/

section
variable {s t : State}

theorem stateXorByte_deliver (i : Nat) (v : Byte) :
    stateXorByte i v (deliver s) = (stateXorByte i v s).map deliver := by
  obtain hi | hi := Nat.lt_or_ge i 200
  · rw [stateXorByte_of_lt v _ hi, stateXorByte_of_lt v _ hi]
    rfl
  · rw [stateXorByte_of_ge v _ hi, stateXorByte_of_ge v _ hi]
    rfl

theorem padMiddle_deliver : padMiddle (deliver s) = deliver (padMiddle s) := by
  rw [padMiddle, padMiddle, apply_ite deliver]
  rfl

theorem pad_deliver : pad (deliver s) = (pad s).map deliver := by
  simp only [pad, stateXorByte_deliver, deliver_absorbed, deliver_suffix]
  cases stateXorByte s.absorbed.toNat s.suffix s with
  | error f => rfl
  | ok t =>
    simp only [Except.map, padMiddle_deliver, stateXorByte_deliver, deliver_rateBytes]
    cases stateXorByte (t.rateBytes - 1).toNat 0x80 (padMiddle t) <;> rfl

theorem padIfVirgin_deliver : padIfVirgin (deliver s) = (padIfVirgin s).map deliver := by
  rw [padIfVirgin, padIfVirgin, pad_deliver, apply_ite (Except.map deliver)]
  rfl

theorem advanceSqueezed_deliver : advanceSqueezed (deliver s) = deliver (advanceSqueezed s) := by
  rw [advanceSqueezed, advanceSqueezed, apply_ite deliver]
  rfl

/-- A squeeze after the waiting response is taken is the squeeze without that. -/
theorem squeezeByte_deliver : squeezeByte (deliver s) = (squeezeByte s).map (Prod.map id deliver) := by
  simp only [squeezeByte, padIfVirgin_deliver]
  cases padIfVirgin s with
  | error f => rfl
  | ok t =>
    simp only [Except.map, stateByte_congr (deliver_lane t), deliver_squeezed, advanceSqueezed_deliver]
    cases stateByte t.squeezed.toNat t <;> rfl

/-! ### The bytes that SQUEEZE returns are the draws (R164, R165) -/

/-- A SQUEEZE in a sequence, and then the rest from the state of its draw. -/
theorem runCommands_squeeze_cons {k : Byte} (is : List Instr) (hs : s.InSession)
    (h : squeezeByte s = .ok (k, t)) :
    runCommands (.squeeze false :: is) s = (runCommands is t).map fun p => (okByte k :: p.1, p.2) := by
  obtain ⟨hflt, hcfg, -⟩ := hs
  have hdelivered : squeezeByte (deliver s) = .ok (k, deliver t) := by
    rw [squeezeByte_deliver, h]
    rfl
  rw [runCommands_cons_ok is (exec_squeeze_byte (s := deliver s) hflt hcfg hdelivered) rfl, deliver_respond,
    deliver_deliver, runCommands_deliver]
  rfl

/-- A draw keeps the session (R164). -/
theorem inSession_of_squeezeByte {k : Byte} (hs : s.InSession) (h : squeezeByte s = .ok (k, t)) : t.InSession := by
  obtain ⟨hflt, hcfg, hw⟩ := hs
  obtain ⟨L, q, rfl, hq⟩ := squeezeByte_in_session hw h
  exact ⟨hflt, hcfg, sessionWf_of_squeezed L hw hq⟩

end

/-- Settles O33, along the loop: each discarded draw is the byte of one SQUEEZE, and the accepted one that of the
last. -/
theorem drawnKeyIsTheFirstByteBelowLength : Obligations.DrawnKeyIsTheFirstByteBelowLength := by
  intro L s u k hs hdraws
  induction hdraws with
  | @accept s k t h hk => exact ⟨[], by simp, hk, runCommands_squeeze_cons [] hs h⟩
  | @discard s x v k t h hx _ ih =>
    obtain ⟨xs, hxs, hk, hrun⟩ := ih (inSession_of_squeezeByte hs h)
    refine ⟨x :: xs, List.forall_mem_cons.2 ⟨Nat.not_lt.1 hx, hxs⟩, hk, ?_⟩
    have hrest : runCommands (List.replicate (xs.length + 1) (.squeeze false)) v =
        some ((xs ++ [k]).map okByte, { t with rsp := none }) := hrun
    calc runCommands (apiSqueeze (xs.length + 1 + 1)) s
        = (runCommands (List.replicate (xs.length + 1) (.squeeze false)) v).map
            fun p => (okByte x :: p.1, p.2) := runCommands_squeeze_cons _ hs h
      _ = some (((x :: xs) ++ [k]).map okByte, { t with rsp := none }) := by rw [hrest]; rfl

/-! ### Binary mode (R162) -/

/-- `bs` with the keystream `ks` XORed onto it, byte by byte (R161). -/
def xorBytes (bs ks : List Byte) : List Byte := List.zipWith (· ^^^ ·) bs ks

section
variable {bs ks : List Byte}

theorem length_xorBytes (h : ks.length = bs.length) : (xorBytes bs ks).length = bs.length := by
  rw [xorBytes, List.length_zipWith, h, Nat.min_self]

/-- XORing the same keystream twice gives the bytes back (R162). -/
theorem xorBytes_xorBytes (h : ks.length = bs.length) : xorBytes (xorBytes bs ks) ks = bs := by
  induction bs generalizing ks with
  | nil => cases ks <;> rfl
  | cons b bs ih =>
    cases ks with
    | nil => cases h
    | cons k ks =>
      have htail : xorBytes (xorBytes bs ks) ks = bs := ih (Nat.succ.inj h)
      have hhead : b ^^^ k ^^^ k = b := by rw [BitVec.xor_assoc, BitVec.xor_self, BitVec.xor_zero]
      calc xorBytes (xorBytes (b :: bs) (k :: ks)) (k :: ks)
          = (b ^^^ k ^^^ k) :: xorBytes (xorBytes bs ks) ks := rfl
        _ = b :: bs := by rw [hhead, htail]

end

/-- A session has one keystream for every input of a given length: the XORs answer with the input XORed onto it, and
leave one state (R161). -/
theorem exists_keystream (n : Nat) {s : State} (hs : s.InSession) :
    ∃ (ks : List Byte) (t : State), ks.length = n ∧
      ∀ bs : List Byte, bs.length = n → runCommands (bs.map .xor) s = some ((xorBytes bs ks).map okByte, t) := by
  induction n generalizing s with
  | zero =>
    refine ⟨[], deliver s, rfl, fun bs hbs => ?_⟩
    rw [List.length_eq_zero_iff.1 hbs]
    rfl
  | succ n ih =>
    have hsession := hs
    obtain ⟨hflt, hcfg, hw⟩ := hsession
    obtain ⟨k, L, q, hsqueeze, -⟩ := squeezeByte_total (s := deliver s) hw
    obtain ⟨ks, t, hks, hrun⟩ := ih (inSession_of_squeezeByte (s := deliver s) hs hsqueeze)
    refine ⟨k :: ks, t, congrArg Nat.succ hks, fun bs hbs => ?_⟩
    obtain ⟨b, bs, rfl⟩ := List.exists_cons_of_length_eq_add_one hbs
    rw [List.map_cons, runCommands_cons_ok _ (exec_xor (s := deliver s) hflt hcfg hsqueeze) rfl, deliver_respond,
      runCommands_deliver, hrun bs (Nat.succ.inj hbs)]
    rfl

/-- In a session there is for every input an output of its length, and each is the answer to the other (R162). -/
theorem exists_binaryOutput {s : State} (bs : List Byte) (hs : s.InSession) :
    ∃ (cs : List Byte) (t : State), cs.length = bs.length ∧
      runCommands (bs.map .xor) s = some (cs.map okByte, t) ∧
      runCommands (cs.map .xor) s = some (bs.map okByte, t) := by
  obtain ⟨ks, t, hks, hrun⟩ := exists_keystream bs.length hs
  have hlen : (xorBytes bs ks).length = bs.length := length_xorBytes hks
  refine ⟨xorBytes bs ks, t, hlen, hrun bs rfl, ?_⟩
  rw [hrun _ hlen, xorBytes_xorBytes hks]

/-! ### The session that a cipher opens (R196, R198) -/

theorem code_of_mem_replicate_okNone {n : Nat} : ∀ r ∈ List.replicate n okNone, r.code = .ok :=
  fun _ hr => congrArg Response.code (List.eq_of_mem_replicate hr)

/-- Absorbing a password of any length answers OK throughout and stays in the session (R133, R193). -/
theorem runCommands_absorb_bytes {s : State} (bs : List Byte) (hs : s.InSession) (hp : s.phase = .absorb) :
    ∃ (L : Lanes) (a : Byte), a.toNat < s.rateBytes.toNat ∧
      runCommands (bs.map (.absorb false)) s =
        some (List.replicate bs.length okNone, { s with lane := L, absorbed := a, rsp := none }) := by
  induction bs generalizing s with
  | nil =>
    obtain ⟨-, -, -, -, hlt, -⟩ := hs
    exact ⟨s.lane, s.absorbed, hlt, rfl⟩
  | cons b bs ih =>
    obtain ⟨hflt, hcfg, hpos, hmax, hlt, hsq⟩ := hs
    obtain ⟨M, c, habsorb, hc⟩ := absorbByte_total (s := deliver s) b ⟨hpos, hmax, hlt, hsq⟩
    obtain ⟨L, a, ha, hrun⟩ := ih (s := { s with lane := M, absorbed := c, rsp := none })
      ⟨hflt, hcfg, hpos, hmax, hc, hsq⟩ hp
    refine ⟨L, a, ha, ?_⟩
    have hbyte := exec_absorb_byte (s := deliver s) hflt hcfg hp habsorb
    exact (runCommands_cons_ok _ hbyte rfl).trans
      (congrArg (Option.map fun p : List Response × State => (okNone :: p.1, p.2)) hrun)

/-- The call `absorb` in phase ABSORB, its empty form included (R135, R193). -/
theorem runCommands_apiAbsorb {s : State} (bs : List Byte) (hs : s.InSession) (hp : s.phase = .absorb) :
    ∃ (L : Lanes) (a : Byte), a.toNat < s.rateBytes.toNat ∧
      runCommands (apiAbsorb bs) s =
        some (List.replicate (apiAbsorb bs).length okNone, { s with lane := L, absorbed := a, rsp := none }) := by
  cases bs with
  | nil =>
    obtain ⟨hflt, hcfg, -, -, hlt, -⟩ := hs
    have hexec := exec_absorb_empty (s := deliver s) (b := 0) hflt hcfg hp
    have hrun := runCommands_cons_ok [] hexec rfl
    exact ⟨s.lane, s.absorbed, hlt, hrun⟩
  | cons b bs =>
    obtain ⟨L, a, ha, hrun⟩ := runCommands_absorb_bytes (b :: bs) hs hp
    refine ⟨L, a, ha, ?_⟩
    rw [apiAbsorb, if_neg (by simp), hrun, List.length_map]

/-- Opening a session answers OK throughout and leaves a session with WARN cleared and the alphabet kept
(R131, R196). -/
theorem runCommands_apiOpenSession {s : State} (password : List Byte) (hflt : s.flt = false) :
    ∃ t : State, t.InSession ∧ t.warn = false ∧ t.alpha = s.alpha ∧ t.alen = s.alen ∧
      runCommands (apiOpenSession password) s =
        some (List.replicate (apiOpenSession password).length okNone, t) := by
  have hinit := exec_init (s := deliver s) Config.shippedRate Config.shippedCapacity Config.shippedSuffix hflt
  have hlegal : configLegal Config.shippedRate Config.shippedCapacity = true := by decide
  rw [if_pos hlegal] at hinit
  obtain ⟨hpos, hmax⟩ := rateBytesOf_bounds hlegal
  obtain ⟨L, a, ha, hrun⟩ := runCommands_apiAbsorb
    (s := startSession Config.shippedRate Config.shippedSuffix (deliver s)) password
    ⟨hflt, rfl, hpos, hmax, hpos, le_rfl⟩ (by simp [State.phase])
  refine ⟨{ startSession Config.shippedRate Config.shippedSuffix (deliver s) with
    lane := L, absorbed := a, rsp := none }, ⟨hflt, rfl, hpos, hmax, ha, le_rfl⟩, rfl, rfl, rfl, ?_⟩
  rw [apiOpenSession, runCommands_cons_ok _ hinit rfl, deliver_respond, runCommands_deliver, hrun]
  rfl

/-- The XORs of a binary cipher after the session it opens (R196). -/
theorem callBinaryCipher_returned {s t u : State} {password bs cs : List Byte}
    (hopen : runCommands (apiOpenSession password) s =
      some (List.replicate (apiOpenSession password).length okNone, t))
    (hrun : runCommands (bs.map .xor) t = some (cs.map okByte, u)) :
    callBinaryCipher password bs s = some (.returned cs, u) := by
  refine callApi_returned_iff.2 ⟨List.replicate (apiOpenSession password).length okNone ++ cs.map okByte, ?_, ?_, ?_⟩
  · rw [apiBinaryCipher, runCommands_append hopen code_of_mem_replicate_okNone, hrun]
    rfl
  · exact List.forall_mem_append.2 ⟨code_of_mem_replicate_okNone, by simp [okByte]⟩
  · simp [binaryOutput, byte_okByte, Function.comp_def]

/-- Settles O28: a session has one keystream for input and output, and opening a session leaves the same one for
both calls. -/
theorem binaryModeIsSelfInverse : Obligations.BinaryModeIsSelfInverse := by
  refine ⟨fun s bs hs => exists_binaryOutput bs hs, fun s password input hflt => ?_⟩
  obtain ⟨t, ht, -, -, -, hopen⟩ := runCommands_apiOpenSession password hflt
  obtain ⟨output, u, hlen, hforth, hback⟩ := exists_binaryOutput input ht
  exact ⟨output, u, hlen, callBinaryCipher_returned hopen hforth, callBinaryCipher_returned hopen hback⟩

end Sys2Proof.Machine
end

section
/-! SUPPORT. Alphabets and textual mode (42_keystream.md): loading an alphabet (R171, R197), then that the textual mode
is self-inverse (R168, R169, R198). -/

namespace Sys2Proof.Machine

/-! ### Sequences that stop, and parts of a sequence (R192) -/

section
variable {is js : List Instr} {s u : State} {rs : List Response}

theorem runCommands_cons_error {i : Instr} {t : State} {r : Response} (is : List Instr)
    (h : exec i (deliver s) = .next t) (hr : t.rsp = some r) (hcode : r.code ≠ .ok) :
    runCommands (i :: is) s = some ([r], deliver t) := by
  simp only [runCommands, h, hr, if_neg hcode]

/-- A sequence that answers OK throughout is its two parts, one after the other. -/
theorem runCommands_append_inv (h : runCommands (is ++ js) s = some (rs, u)) (hok : ∀ r ∈ rs, r.code = .ok) :
    ∃ ps qs t, runCommands is s = some (ps, t) ∧ runCommands js t = some (qs, u) ∧ rs = ps ++ qs := by
  induction is generalizing s rs with
  | nil => exact ⟨[], rs, deliver s, rfl, by rw [runCommands_deliver]; exact h, rfl⟩
  | cons i is ih =>
    obtain ⟨v, r, hv, hr, ⟨hcode, ws, hws, rfl⟩ | ⟨hcode, rfl, -⟩⟩ := runCommands_cons h
    · obtain ⟨ps, qs, t, hps, hqs, rfl⟩ := ih hws fun q hq => hok q (List.mem_cons_of_mem _ hq)
      obtain ⟨code, x⟩ := r
      cases hcode
      refine ⟨⟨.ok, x⟩ :: ps, qs, t, ?_, hqs, rfl⟩
      rw [runCommands_cons_ok is hv hr, hps]
      rfl
    · exact absurd (hok r (List.mem_singleton_self r)) hcode

end

/-! ### Loading an alphabet (R171, R197) -/

/-- The state with the first `n` entries of a table as its alphabet, and no response waiting (R171). -/
def State.withSymbols (s : State) (T : Alphabet) (n : Nat) : State :=
  { s with alpha := T, alen := BitVec.ofNat 8 n, rsp := none }

section
variable {s : State}

/-- Appending a symbol to a loaded list puts it at the next index (R171). -/
theorem getElem?_of_append_symbol {T U : Alphabet} {cs : List CharCode} {c : CharCode}
    (hT : ∀ j, j < cs.length → T[j]? = cs[j]?) (hU : ∀ j : Nat, U[j]? = if j = cs.length then some c else T[j]?)
    (j : Nat) (hj : j < (cs ++ [c]).length) : U[j]? = (cs ++ [c])[j]? := by
  rw [List.length_append, List.length_singleton] at hj
  rw [hU j]
  split
  · next heq => rw [heq, List.getElem?_concat_length]
  · next hne =>
    have hlt : j < cs.length := by omega
    rw [hT j hlt, List.getElem?_append_left hlt]

/-- Loading at most 255 symbols (R197). -/
theorem runCommands_apiLoadAlphabet {cs : List CharCode} (hflt : s.flt = false) (hlen : cs.length ≤ 255) :
    ∃ T : Alphabet, (∀ j, j < cs.length → T[j]? = cs[j]?) ∧
      runCommands (apiLoadAlphabet cs) s =
        some (List.replicate (cs.length + 1) okNone, s.withSymbols T cs.length) := by
  induction cs using List.reverseRecOn with
  | nil =>
    have hclear := alphaClearEmptiesTheAlphabet (deliver s) hflt
    exact ⟨s.alpha, fun j hj => absurd hj j.not_lt_zero, runCommands_cons_ok [] hclear rfl⟩
  | append_singleton cs c ih =>
    rw [List.length_append, List.length_singleton] at hlen
    obtain ⟨T, hT, hrun⟩ := ih (by omega)
    have hcount : (BitVec.ofNat 8 cs.length).toNat = cs.length := toNat_ofNat_of_lt (by omega)
    have hroom : BitVec.ofNat 8 cs.length ≠ 255 := by bv_omega
    obtain ⟨happend, -⟩ := alphaAppendAddsOneSymbolOrFaults (s.withSymbols T cs.length) c hflt
    obtain ⟨U, hU, hexec⟩ := happend hroom
    simp only [State.withSymbols, hcount] at hU
    have hsequence : apiLoadAlphabet (cs ++ [c]) = apiLoadAlphabet cs ++ [.alphaAppend c] := by
      simp [apiLoadAlphabet]
    have hnext : BitVec.ofNat 8 (cs.length + 1) = BitVec.ofNat 8 cs.length + 1 := BitVec.ofNat_add ..
    refine ⟨U, getElem?_of_append_symbol hT hU, ?_⟩
    rw [List.length_append, List.length_singleton, List.replicate_succ' (n := cs.length + 1), State.withSymbols, hnext,
      hsequence, runCommands_snoc hrun code_of_mem_replicate_okNone hexec rfl]
    rfl

/-- A 256th symbol ends the load (R171, R197). -/
theorem runCommands_apiLoadAlphabet_full {cs : List CharCode} (hflt : s.flt = false) (hlen : 255 < cs.length) :
    ∃ T : Alphabet, (∀ j, j < 255 → T[j]? = cs[j]?) ∧
      runCommands (apiLoadAlphabet cs) s = some (List.replicate 256 okNone ++ [⟨.config, 0⟩],
        { s with alpha := T, alen := 255, flt := true, err := 3, rsp := none }) := by
  have hfirst : (cs.take 255).length = 255 := by rw [List.length_take]; omega
  obtain ⟨T, hT, hrun⟩ := runCommands_apiLoadAlphabet (cs := cs.take 255) hflt hfirst.le
  rw [hfirst] at hT hrun
  refine ⟨T, fun j hj => by rw [hT j hj, List.getElem?_take_of_lt hj], ?_⟩
  have hsequence : apiLoadAlphabet cs = apiLoadAlphabet (cs.take 255) ++
      .alphaAppend cs[255] :: (cs.drop 256).map .alphaAppend := by
    simp only [apiLoadAlphabet, List.cons_append, ← List.map_cons, ← List.map_append]
    rw [← List.drop_eq_getElem_cons hlen, List.take_append_drop]
  obtain ⟨-, hfull⟩ := alphaAppendAddsOneSymbolOrFaults (s.withSymbols T 255) cs[255] hflt
  have herror := runCommands_cons_error (s := s.withSymbols T 255) (r := ⟨.config, 0⟩)
    ((cs.drop 256).map .alphaAppend) (hfull rfl) rfl (by decide)
  rw [hsequence, runCommands_append hrun code_of_mem_replicate_okNone, herror]
  rfl

end

/-- Settles O38: the load of a list that fits, and of one that does not. -/
theorem loadedAlphabetIsTheSymbolList : Obligations.LoadedAlphabetIsTheSymbolList :=
  fun _ _ hflt => ⟨runCommands_apiLoadAlphabet hflt, runCommands_apiLoadAlphabet_full hflt⟩

/-! ### One TEXT that answers -/

section
variable {s t : State} {d : Direction} {c : CharCode} {r : Response}

/-- What an answered TEXT has done in a session: passed the character through, or drawn a key and mapped it
(R167, R168). -/
theorem exec_text_answered (hs : s.InSession) (hport : s.rsp = none) (h : exec (.text d c) s = .next t)
    (hr : t.rsp = some r) :
    (lookup c s = none ∧ t = respond .ok (passthroughData c) { s with warn := true }) ∨
    ∃ i k L q, lookup c s = some i ∧ q.toNat < s.rateBytes.toNat ∧
      DrawsKey s.alen.toNat s k { s with lane := L, squeezed := q } ∧
      t = respond .ok (symbolData (symbolAt s (shiftIndex d s.alen.toNat i k.toNat)))
        { s with lane := L, squeezed := q } := by
  obtain ⟨hflt, hcfg, hw⟩ := hs
  obtain hc | ⟨-, hforeign | ⟨i, hi, ⟨k, u, hk, ht⟩ | ⟨-, rfl⟩⟩⟩ := execText_cases h
  · cases (check_of_session (i := .text d c) rfl hflt hcfg).symm.trans hc
  · exact .inl hforeign
  · obtain ⟨L, q, rfl, hq⟩ := drawKey_in_session hw hk
    exact .inr ⟨i, k, L, q, hi, hq, drawKey_key hk, ht⟩
  · cases hport.symm.trans hr

/-- An answered TEXT answers OK and keeps the session and the alphabet; WARN is set by a foreign character
(R168, R31). -/
theorem exec_text_keeps (hs : s.InSession) (hport : s.rsp = none) (h : exec (.text d c) s = .next t)
    (hr : t.rsp = some r) :
    r.code = .ok ∧ t.InSession ∧ t.alpha = s.alpha ∧ t.alen = s.alen ∧
      (t.warn = true ↔ s.warn = true ∨ lookup c s = none) := by
  have hanswered := exec_text_answered hs hport h hr
  obtain ⟨hflt, hcfg, hw⟩ := hs
  obtain ⟨hl, rfl⟩ | ⟨i, k, L, q, hl, hq, -, rfl⟩ := hanswered
  · cases hr
    exact ⟨rfl, ⟨hflt, hcfg, hw⟩, rfl, rfl, by simp [hl]⟩
  · cases hr
    exact ⟨rfl, ⟨hflt, hcfg, sessionWf_of_squeezed (s := s) L hw hq⟩, rfl, rfl, by simp [hl]⟩

/-- Decrypting the character that an encryption answered, in the same state: a foreign character is foreign again, and
the same key maps the symbol's one index back (R168, R169). -/
theorem exec_text_decrypt_answer (hs : s.InSession) (hd : s.DistinctSymbols) (hport : s.rsp = none)
    (h : exec (.text .encrypt c) s = .next t) (hr : t.rsp = some r) :
    ∃ x, exec (.text .decrypt r.char) s = .next (respond .ok x t) ∧ Response.char ⟨.ok, x⟩ = c := by
  have hanswered := exec_text_answered hs hport h hr
  obtain ⟨hflt, hcfg, -⟩ := hs
  obtain ⟨hl, rfl⟩ | ⟨i, k, L, q, hl, -, hdraws, rfl⟩ := hanswered
  · cases hr
    refine ⟨passthroughData c, ?_, setWidth_passthroughData c⟩
    rw [Response.char, setWidth_passthroughData, exec_text_foreign _ hflt hcfg hl, respond_respond]
  · cases hr
    obtain ⟨hk, -⟩ := drawsKey_frame hdraws
    obtain ⟨hi, hc, -⟩ := (lookupFindsTheLastMatch.1 s c i).1 hl
    have hj : shiftIndex .encrypt s.alen.toNat i k.toNat < s.alen.toNat := shiftIndex_lt hi hk
    have hback := exec_text_key .decrypt hflt hcfg
      (lookup_eq_some_of_distinct hd hj (getElem?_symbolAt hj)) hdraws
    have hsymbol : symbolAt s i = c := Option.some.inj ((getElem?_symbolAt hi).symm.trans hc)
    rw [shiftIndex_decrypt_encrypt hi hk, hsymbol] at hback
    refine ⟨symbolData c, ?_, setWidth_symbolData c⟩
    rw [Response.char, setWidth_symbolData, hback, respond_respond]

end

/-! ### A text (R169) -/

section
variable {s t : State} {cs : List CharCode} {rs : List Response}

theorem distinctSymbols_congr (halpha : t.alpha = s.alpha) (halen : t.alen = s.alen) (hd : s.DistinctSymbols) :
    t.DistinctSymbols := by
  intro i j
  rw [halpha, halen]
  exact hd i j

theorem lookup_congr (halpha : t.alpha = s.alpha) (halen : t.alen = s.alen) (c : CharCode) :
    lookup c t = lookup c s := by
  rw [lookup_eq_lastBelow, lookup_eq_lastBelow, halen]
  simp only [halpha]

/-- A text that is answered is answered OK throughout, and sets WARN exactly for a foreign character (R168). -/
theorem runCommands_text_keeps {d : Direction} (hs : s.InSession)
    (h : runCommands (cs.map (.text d)) s = some (rs, t)) :
    (∀ r ∈ rs, r.code = .ok) ∧ (t.warn = true ↔ s.warn = true ∨ ∃ c ∈ cs, lookup c s = none) := by
  induction cs generalizing s rs with
  | nil =>
    cases h
    simp
  | cons c cs ih =>
    obtain ⟨v, r, hv, hr, hrest⟩ := runCommands_cons h
    obtain ⟨hcode, hin, halpha, halen, hwarn⟩ := exec_text_keeps (s := deliver s) hs rfl hv hr
    obtain ⟨-, qs, hqs, rfl⟩ | ⟨hne, -, -⟩ := hrest
    · obtain ⟨hok, htail⟩ := ih (s := deliver v) hin hqs
      have hsame : ∀ c, lookup c (deliver v) = lookup c s := lookup_congr halpha halen
      have hhead : lookup c (deliver s) = lookup c s := lookup_congr rfl rfl c
      refine ⟨List.forall_mem_cons.2 ⟨hcode, hok⟩, ?_⟩
      rw [htail, deliver_warn, hwarn, deliver_warn, hhead, or_assoc]
      simp only [hsame, List.mem_cons, exists_eq_or_imp]
    · exact absurd hcode hne

/-- An answered encryption is undone by the decryption of its output characters from the same state (R169). -/
theorem runCommands_text_decrypt (hs : s.InSession) (hd : s.DistinctSymbols)
    (h : runCommands (cs.map (.text .encrypt)) s = some (rs, t)) :
    ∃ ps : List Response, runCommands ((rs.map Response.char).map (.text .decrypt)) s = some (ps, t) ∧
      ps.map Response.char = cs := by
  induction cs generalizing s rs with
  | nil =>
    cases h
    exact ⟨[], rfl, rfl⟩
  | cons c cs ih =>
    obtain ⟨v, r, hv, hr, hrest⟩ := runCommands_cons h
    obtain ⟨hcode, hin, halpha, halen, -⟩ := exec_text_keeps (s := deliver s) hs rfl hv hr
    obtain ⟨x, hx, hchar⟩ := exec_text_decrypt_answer (s := deliver s) hs hd rfl hv hr
    obtain ⟨-, qs, hqs, rfl⟩ | ⟨hne, -, -⟩ := hrest
    · obtain ⟨ps, hps, hpchar⟩ := ih (s := deliver v) hin (distinctSymbols_congr halpha halen hd) hqs
      refine ⟨⟨.ok, x⟩ :: ps, ?_, by rw [List.map_cons, hchar, hpchar]⟩
      rw [List.map_cons, List.map_cons, runCommands_cons_ok _ hx rfl, deliver_respond, hps]
      rfl
    · exact absurd hcode hne

end

/-! ### The call `textual_cipher` (R198) -/

/-- The session a textual cipher prepares holds the alphabet and has WARN cleared. -/
structure Prepared (alphabet : List CharCode) (v : State) : Prop where
  inSession : v.InSession
  warn : v.warn = false
  alen : v.alen.toNat = alphabet.length
  alpha : ∀ j, j < alphabet.length → v.alpha[j]? = alphabet[j]?

section
variable {s t v : State} {password : List Byte} {alphabet input output : List CharCode} {mismatch : Bool}

theorem Prepared.distinctSymbols (hv : Prepared alphabet v) (hnodup : alphabet.Nodup) : v.DistinctSymbols := by
  intro i j hi hj hij
  rw [hv.alen] at hi hj
  rw [hv.alpha i hi, hv.alpha j hj] at hij
  exact (List.getElem?_inj hi hnodup).1 hij

/-- After loading an alphabet, Lookup finds nothing exactly for a character outside it (R163). -/
theorem Prepared.lookup_eq_none_iff (hv : Prepared alphabet v) {c : CharCode} :
    lookup c v = none ↔ c ∉ alphabet := by
  rw [Machine.lookup_eq_none_iff, hv.alen, List.mem_iff_getElem?]
  constructor
  · rintro hnone ⟨j, hj⟩
    have hlt : j < alphabet.length := (List.getElem?_eq_some_iff.1 hj).1
    exact hnone j hlt ((hv.alpha j hlt).trans hj)
  · intro hout j hlt hj
    exact hout ⟨j, (hv.alpha j hlt).symm.trans hj⟩

/-- Loading an alphabet that fits and opening the session answer OK throughout (R196, R197, R198). -/
theorem runCommands_apiPrepareText (password : List Byte) (hflt : s.flt = false) (hlen : alphabet.length ≤ 255) :
    ∃ v ps, Prepared alphabet v ∧ (∀ r ∈ ps, r.code = .ok) ∧
      runCommands (apiPrepareText password alphabet) s = some (ps, v) := by
  obtain ⟨T, hT, hload⟩ := runCommands_apiLoadAlphabet hflt hlen
  obtain ⟨v, hin, hwarn, halpha, halen, hopen⟩ := runCommands_apiOpenSession
    (s := s.withSymbols T alphabet.length) password hflt
  refine ⟨v, List.replicate (alphabet.length + 1) okNone ++ List.replicate (apiOpenSession password).length okNone,
    ⟨hin, hwarn, ?_, ?_⟩,
    List.forall_mem_append.2 ⟨code_of_mem_replicate_okNone, code_of_mem_replicate_okNone⟩, ?_⟩
  · rw [halen]
    exact toNat_ofNat_of_lt (by omega)
  · rw [halpha]
    exact hT
  · rw [apiPrepareText, runCommands_append hload code_of_mem_replicate_okNone, hopen]
    rfl

/-- A textual cipher that returns was called on a core that is not FAULTED, with an alphabet that fits (R197, R216). -/
theorem flt_and_length_of_callTextualCipher {d : Direction}
    (h : callTextualCipher password input alphabet d s = some (.returned (output, mismatch), t)) :
    s.flt = false ∧ alphabet.length ≤ 255 := by
  obtain ⟨rs, hrun, hok, -⟩ := callApi_returned_iff.1 h
  rw [apiTextualCipher, apiPrepareText, List.append_assoc] at hrun
  obtain ⟨ps, qs, w, hload, -, rfl⟩ := runCommands_append_inv hrun hok
  obtain ⟨hloaded, -⟩ := List.forall_mem_append.1 hok
  have hflt : s.flt = false := by
    by_contra hfaulted
    have hrefused := exec_of_check_eq_some (check_of_flt (s := deliver s) (i := .alphaClear) _
      (by simpa using hfaulted) (by simp))
    have herror := runCommands_cons_error (alphabet.map .alphaAppend) hrefused rfl (by decide)
    cases hload.symm.trans herror
    cases hloaded _ (List.mem_singleton_self _)
  refine ⟨hflt, Nat.not_lt.1 fun hlong => ?_⟩
  obtain ⟨T, -, herror⟩ := runCommands_apiLoadAlphabet_full hflt hlong
  cases hload.symm.trans herror
  cases hloaded _ (List.mem_append_right _ (List.mem_singleton_self _))

/-- STATUS at the end of a sequence reports WARN and changes nothing (R190, R198). -/
theorem runCommands_status (hport : t.rsp = none) :
    runCommands [.status] t = some ([⟨.ok, statusWord t⟩], t) := by
  have hdelivered : deliver t = t := by rw [deliver, ← hport]
  have hexec : exec .status (deliver t) = .next (respond .ok (statusWord (deliver t)) (deliver t)) := execStatus_eq _
  rw [runCommands_cons_ok [] hexec rfl, deliver_respond, deliver_deliver, hdelivered, runCommands, hdelivered]
  rfl

theorem mismatch_status (t : State) : Response.mismatch ⟨.ok, statusWord t⟩ = t.warn := by
  obtain ⟨-, -, hwarn, -⟩ := statusWord_flags t
  exact hwarn

/-- The call after its preparation, where the text is answered OK: it returns the characters of the answers and WARN
(R198). -/
theorem callTextualCipher_returned {d : Direction} {ps rs : List Response}
    (hprep : runCommands (apiPrepareText password alphabet) s = some (ps, v)) (hps : ∀ r ∈ ps, r.code = .ok)
    (hrun : runCommands (input.map (.text d)) v = some (rs, t)) (hrs : ∀ r ∈ rs, r.code = .ok) :
    callTextualCipher password input alphabet d s = some (.returned (rs.map Response.char, t.warn), t) := by
  refine callApi_returned_iff.2 ⟨ps ++ (rs ++ [⟨.ok, statusWord t⟩]), ?_, ?_, ?_⟩
  · rw [apiTextualCipher, runCommands_append hprep hps, runCommands_append hrun hrs,
      runCommands_status (runCommands_rsp hrun)]
    rfl
  · exact List.forall_mem_append.2 ⟨hps, List.forall_mem_append.2 ⟨hrs, List.forall_mem_singleton.2 rfl⟩⟩
  · have hinput : rs.length = input.length := by rw [runCommands_length hrun hrs, List.length_map]
    rw [textualOutput, ← runCommands_length hprep hps, List.drop_left, ← hinput, List.take_left, List.drop_left,
      List.any_cons, List.any_nil, Bool.or_false, mismatch_status]

/-- That is the only way in which the call returns (R192, R198). -/
theorem callTextualCipher_returned_iff {d : Direction} {ps : List Response}
    (hprep : runCommands (apiPrepareText password alphabet) s = some (ps, v)) (hps : ∀ r ∈ ps, r.code = .ok) :
    callTextualCipher password input alphabet d s = some (.returned (output, mismatch), t) ↔
      ∃ rs, runCommands (input.map (.text d)) v = some (rs, t) ∧ (∀ r ∈ rs, r.code = .ok) ∧
        output = rs.map Response.char ∧ mismatch = t.warn := by
  constructor
  · intro h
    obtain ⟨ws, hrun, hok, -⟩ := callApi_returned_iff.1 h
    obtain ⟨ps', qs, v', hprep', hrest, rfl⟩ := runCommands_append_inv hrun hok
    cases hprep.symm.trans hprep'
    obtain ⟨-, hqs⟩ := List.forall_mem_append.1 hok
    obtain ⟨rs, zs, u, htext, -, rfl⟩ := runCommands_append_inv hrest hqs
    obtain ⟨hrs, -⟩ := List.forall_mem_append.1 hqs
    cases h.symm.trans (callTextualCipher_returned hprep hps htext hrs)
    exact ⟨rs, htext, hrs, rfl, rfl⟩
  · rintro ⟨rs, hrun, hrs, rfl, rfl⟩
    exact callTextualCipher_returned hprep hps hrun hrs

end

/-- Settles O35: a text from a session, then both calls from the one session that they prepare. -/
theorem textualModeIsSelfInverse : Obligations.TextualModeIsSelfInverse := by
  refine ⟨fun s t cs rs hs hd h => runCommands_text_decrypt hs hd h, ?_⟩
  intro s t password input output alphabet mismatch hnodup h
  obtain ⟨hflt, hlen⟩ := flt_and_length_of_callTextualCipher h
  obtain ⟨v, ps, hv, hps, hprep⟩ := runCommands_apiPrepareText password hflt hlen
  obtain ⟨rs, hrun, hok, rfl, rfl⟩ := (callTextualCipher_returned_iff hprep hps).1 h
  obtain ⟨qs, hback, hchars⟩ := runCommands_text_decrypt hv.inSession (hv.distinctSymbols hnodup) hrun
  obtain ⟨hqs, -⟩ := runCommands_text_keeps hv.inSession hback
  obtain ⟨-, hwarn⟩ := runCommands_text_keeps hv.inSession hrun
  refine ⟨(callTextualCipher_returned_iff hprep hps).2 ⟨qs, hback, hqs, hchars.symm, rfl⟩, ?_, ?_⟩
  · rw [List.length_map, runCommands_length hrun hok, List.length_map]
  · simp only [hwarn, hv.warn, hv.lookup_eq_none_iff, Bool.false_eq_true, false_or]

end Sys2Proof.Machine
end

section
/-! SUPPORT. Exceptions (60_exceptions.md): the order of the prologue's errors (R215), what a FAULTED core keeps and
what reset clears (R216, R217), and that no run from reset stops (R214). -/

namespace Sys2Proof.Machine

/-! ### The order of the prologue's errors (R215) -/

section
variable {s : State} {i : Instr}

/-- An ill-formed command is ERR_ILLEGAL, whether it needs a session and has one or not. -/
theorem check_of_not_wellFormed (n : Bool) (hflt : s.flt = false) (hwf : i.wellFormed s.build = false) :
    check (some i) n s = some (fatal .illegal s) := by
  simp [check, hflt, hwf]

/-- A well-formed command that needs a session is ERR_NOSESSION without one. -/
theorem check_of_no_session (hflt : s.flt = false) (hcfg : s.cfg = false) (hwf : i.wellFormed s.build = true) :
    check (some i) true s = some (fatal .noSession s) := by
  simp [check, hflt, hcfg, hwf]

end

/-- Settles O43: the prologue's refusal ends the command, and each of the six commands of a session needs one. -/
theorem prologueOrdersTheErrors : Obligations.PrologueOrdersTheErrors := by
  refine ⟨fun s i hflt hwf => exec_of_check_eq_some (check_of_not_wellFormed _ hflt hwf), fun s i hflt hcfg hwf hi => ?_⟩
  have hneeds : needsSession i = true := by
    obtain ⟨e, b, rfl⟩ | ⟨e, rfl⟩ | ⟨b, rfl⟩ | ⟨d, c, rfl⟩ | rfl | ⟨idx, rfl⟩ := hi <;> rfl
  have hcheck := check_of_no_session hflt hcfg hwf
  rw [← hneeds] at hcheck
  exact exec_of_check_eq_some hcheck

/-! ### FAULTED (R216, R217) -/

section
variable {s t : State}

/-- A command on a FAULTED core is STATUS, which only reads, or is refused (R216). -/
theorem exec_keeps_fault {i : Instr} (hflt : s.flt = true) (h : exec i s = .next t) :
    t.flt = true ∧ t.err = s.err := by
  by_cases hi : i = .status
  · subst hi
    cases (execStatus_eq s).symm.trans h
    exact ⟨hflt, rfl⟩
  · cases (exec_of_check_eq_some (check_of_flt _ hflt hi)).symm.trans h
    exact ⟨hflt, rfl⟩

/-- An illegal word on a FAULTED core raises no second fatal error (R216). -/
theorem execIllegal_keeps_fault (hflt : s.flt = true) (h : execIllegal s = .next t) :
    t.flt = true ∧ t.err = s.err := by
  rw [execIllegal_eq, if_pos hflt] at h
  cases h
  exact ⟨hflt, rfl⟩

/-- A step with a command at the port: it waits, or it is executed or refused as an illegal word (R81, R87). -/
theorem step_command_keeps_fault {w : Word} {rest : List PortInput} (hin : s.inputs = .command w :: rest)
    (hflt : s.flt = true) (h : step s = .next t) : t.flt = true ∧ t.err = s.err := by
  cases hready : s.cmdReady with
  | false =>
    cases (step_command_of_not_ready hin hready).symm.trans h
    exact ⟨hflt, rfl⟩
  | true =>
    cases hdec : decode s.build w with
    | ok i =>
      rw [step_command_of_decode_ok hin hready hdec] at h
      exact exec_keeps_fault (s := { s with inputs := rest }) hflt h
    | error e =>
      rw [step_command_of_decode_error hin hready hdec] at h
      exact execIllegal_keeps_fault (s := { s with inputs := rest }) hflt h

/-- A step on the host's reset, from any state (R240). -/
theorem step_reset {rest : List PortInput} (hin : s.inputs = .reset :: rest) :
    step s = .next (resetCore { s with inputs := rest }) := by
  simp only [step, hin]

end

/-- Settles O46, along the host's next action: none, a command, a delivery, or the reset that the first clause leaves
out. -/
theorem onlyResetLeavesFaulted : Obligations.OnlyResetLeavesFaulted := by
  obtain ⟨hidle, -, htake⟩ := portHoldsCommandsUntilReady
  refine ⟨fun s t hflt hnoreset h => ?_, fun s rest hin => ⟨_, step_reset hin, rfl, rfl⟩⟩
  cases hin : s.inputs with
  | nil =>
    cases (hidle s hin).symm.trans h
    exact ⟨hflt, rfl⟩
  | cons a rest =>
    cases a with
    | command w => exact step_command_keeps_fault hin hflt h
    | takeResponse =>
      cases (htake s rest hin).symm.trans h
      exact ⟨hflt, rfl⟩
    | reset => exact absurd (by rw [hin]; rfl) hnoreset

/-! ### Runs from reset (R214, R240) -/

/-- An invariant with which every step has a next state, and which that step keeps, holds at the end of a run of any
length, which does not stop. -/
theorem run_next_of_step_next {M : Host.Core} {P : M.State → Prop}
    (hstep : ∀ s, P s → ∃ t, M.step s = .next t ∧ P t) (k : Nat) {s : M.State} (hs : P s) :
    ∃ t, M.run k s = .next t ∧ P t := by
  induction k generalizing s with
  | zero => exact ⟨s, rfl, hs⟩
  | succ k ih =>
    obtain ⟨u, hu, hPu⟩ := hstep s hs
    simp only [Host.Core.run, hu]
    exact ih hPu

/-- From a state with the invariant a step has a next state, with the invariant. -/
theorem step_next_of_inv (s : State) (hi : s.Inv) : ∃ t, step s = .next t ∧ t.Inv := by
  obtain ⟨t, ht⟩ := invariantStatesNeverStop s hi
  exact ⟨t, ht, stepKeepsTheInvariant s t hi ht⟩

/-- Settles O60: the run begins with the invariant, which does not speak of the build and the host's next actions. -/
theorem noRunFromResetStops : Obligations.NoRunFromResetStops := by
  intro k build actions
  have hreset : State.Inv { State.reset with build := build, inputs := actions } := invariantHoldsAfterReset
  exact run_next_of_step_next (M := core) step_next_of_inv k hreset

end Sys2Proof.Machine
end

section
/-! SUPPORT. Reset and hazards (70_reset_and_hazards.md): what the host's reset leaves at the port (R240). -/

namespace Sys2Proof.Machine

/-- Settles O50: the step on reset is `resetCore`, which takes from the old state its build and from the port the
actions that are left; the command in flight and the response that waits go with the rest of the old state. -/
theorem resetActionRestoresTheResetState : Obligations.ResetActionRestoresTheResetState := by
  intro s rest hin
  calc step s = .next (resetCore { s with inputs := rest }) := step_reset hin
    _ = .next { State.reset with build := s.build, inputs := rest } := by rw [resetCore_eq]

end Sys2Proof.Machine
end
